-- ==== Sys2Proof/Word.lean ====
section
/-! DEFINITION. The widths of 00_scope.md R6: registers and command words of 32 bits, byte lanes of 8 bits. -/

namespace Sys2Proof

/-- A host-visible register, a command word, a tick count, a loop count or a duration (00_scope.md R6). -/
abbrev Word := BitVec 32

/-- One byte lane of the host bus (20_memory.md R51). -/
abbrev Byte := BitVec 8

/-- A stored maximum angle: 9 bits (00_scope.md R6, 10_state.md R32). -/
abbrev MaxAngle := BitVec 9

/-- A byte offset into the register window: 6 bits (10_state.md R37). -/
abbrev Offset := BitVec 6

end Sys2Proof
end

