-- ==== Sys2Proof/Config.lean ====
section
/-! DEFINITION. The named constants and the OPEN parameters of 00_scope.md R5, the reference configurations of
92_eei_decisions.md D43, and the free values of the model (constants without a body). -/

namespace Sys2Proof.Config

/-- `N_SERVO` (00_scope.md R5). -/
abbrev nServo : Nat := 8
/-- `ANGLE_MAX` (00_scope.md R5, 90_conflicts.md C1). -/
abbrev angleMax : Nat := 359
/-- `NATIVE_MAX` (00_scope.md R5). -/
abbrev nativeMax : Nat := 180
/-- `KEY_MAX` (00_scope.md R5). -/
abbrev keyMax : Nat := 127
/-- `A4_KEY` (00_scope.md R5). -/
abbrev a4Key : Nat := 69
/-- `A4_HZ` (00_scope.md R5). -/
abbrev a4Hz : Nat := 440
/-- `SEMITONES` (00_scope.md R5). -/
abbrev semitones : Nat := 12
/-- `LOOP_DIV` (00_scope.md R5). -/
abbrev loopDiv : Nat := 2000
/-- The size of the register window in bytes (10_state.md R20). -/
abbrev windowBytes : Nat := 64
/-- The one admitted access size in bytes (20_memory.md R52). -/
abbrev accessBytes : Nat := 4

/-- FREE VALUE. `S.pwm_done` after a reset step: the spec leaves it unspecified (10_state.md R40; 93 I5); the argument
is the draw counter of State. Log entry 4. -/
opaque pwmDoneAfterReset : Nat → Bool

/-- FREE VALUE. The quotient of a division by zero, as a function of the dividend: 00_scope.md R8 defines `a div b` for
`b >= 1` alone and says that no pseudocode divides by zero. Log entry 10. -/
opaque quotientByZero : Nat → Nat

end Sys2Proof.Config

namespace Sys2Proof

/-- The OPEN parameters of 00_scope.md R5, which a model takes as arguments: they stand in State, no step changes them,
and a statement about every state is a statement about every value of them. Log entries 1 and 2. -/
structure Params where
  /-- `TICK_FREQ`, in ticks per second. -/
  tickFreq : Word
  /-- `PWM_PERIOD_MAX`, the largest counting period the capability accepts. -/
  pwmPeriodMax : Word
  /-- `PWM_LOOP_MAX`, the largest repeat count the capability accepts. -/
  pwmLoopMax : Word
  /-- `BASE`, the window's address in the host's address space. -/
  base : Nat
deriving DecidableEq, Repr

/-- The ranges of 00_scope.md R5: each OPEN integer is in 1 .. 2^32-1 (the upper bound is the width's). -/
def Params.inRange (p : Params) : Bool :=
  p.tickFreq.toNat ≠ 0 && p.pwmPeriodMax.toNat ≠ 0 && p.pwmLoopMax.toNat ≠ 0

/-- CFG-A (92_eei_decisions.md D43), at base 0 (DESIGN CHOICE, log entries 1 and 2). -/
def Config.cfgA : Params :=
  { tickFreq := 2000000#32, pwmPeriodMax := 0xFFFFFFFF#32, pwmLoopMax := 0xFFFFFFFF#32, base := 0 }

/-- CFG-B (92_eei_decisions.md D43), at base 0: a test configuration only (93 G1). -/
def Config.cfgB : Params := { Config.cfgA with pwmPeriodMax := 32767#32, pwmLoopMax := 65535#32 }

end Sys2Proof
end

