-- ==== Sys2Proof/Syntax.lean ====
section
/-! DEFINITION. The commands (30_encoding.md R71), the verdicts of the decoder (R74 to R77), and the assembler's terms
(R80). -/

namespace Sys2Proof

/-- The five commands, one constructor per row of the opcode table, each operand at the width its field has
(30_encoding.md R70 to R73): so every term is a command some word encodes (log entry 19). -/
inductive Instr where
  /-- SCFG CH, VAL (40_servo.md R102). -/
  | scfg (ch : BitVec 8) (val : BitVec 16)
  /-- SSCL CH, VAL (40_servo.md R104). -/
  | sscl (ch : BitVec 8) (val : BitVec 16)
  /-- TPER KEY (41_tone.md R122). -/
  | tper (key : BitVec 16)
  /-- TLCNT KEY (41_tone.md R126). -/
  | tlcnt (key : BitVec 16)
  /-- TPLAY KEY (41_tone.md R130). -/
  | tplay (key : BitVec 16)
deriving DecidableEq, Repr

/-- Why a word decodes to no command. Each of the first three is the TSU's ILLEGAL, a defined outcome (30_encoding.md
R75 to R78), so none of them is a fault or a refusal of the model. -/
inductive Reject where
  /-- A reserved opcode: 0x0 or 0x6 to 0xF (30_encoding.md R75). -/
  | reservedOpcode
  /-- `cmd[27:24] != 0` (30_encoding.md R76). -/
  | reservedField
  /-- A format-T word with `cmd[23:16] != 0` (30_encoding.md R77). -/
  | toneChannel
  /-- Bytes that are not the four lanes of one word: every command is exactly 32 bits long (30_encoding.md R79). No
  word of the TSU decodes so. -/
  | notOneWord
deriving DecidableEq, Repr

/-- What the decode function returns: exactly one of the five commands or ILLEGAL (30_encoding.md R74). -/
inductive Decoded where
  | cmd (i : Instr)
  | illegal (why : Reject)
deriving DecidableEq, Repr

/-- A command as the assembler's user writes it: operands are numbers of any size (30_encoding.md R80). -/
inductive Asm where
  | scfg (ch val : Nat)
  | sscl (ch val : Nat)
  | tper (key : Nat)
  | tlcnt (key : Nat)
  | tplay (key : Nat)
deriving DecidableEq, Repr

end Sys2Proof
end

