-- ==== Sys2Proof/WellFormed.lean ====
section
/-! DEFINITION. The assembler's checks (30_encoding.md R80): an operand that does not fit its field is refused; one that
fits the field but lies outside the legal range is encoded, so that the TSU itself rejects it. -/

namespace Sys2Proof

/-- CH fits its 8-bit field (30_encoding.md R80). -/
def fitsChannelField (ch : Nat) : Bool := ch ≤ 255

/-- VAL or KEY fits its 16-bit field (30_encoding.md R80). -/
def fitsValueField (val : Nat) : Bool := val ≤ 65535

/-- The assembler accepts the term (30_encoding.md R80). -/
def Asm.wellFormed : Asm → Bool
  | .scfg ch val => fitsChannelField ch && fitsValueField val
  | .sscl ch val => fitsChannelField ch && fitsValueField val
  | .tper key => fitsValueField key
  | .tlcnt key => fitsValueField key
  | .tplay key => fitsValueField key

/-- The command whose fields carry the term's operands, operands cut to their fields' widths. -/
def Asm.toInstr : Asm → Instr
  | .scfg ch val => .scfg (BitVec.ofNat 8 ch) (BitVec.ofNat 16 val)
  | .sscl ch val => .sscl (BitVec.ofNat 8 ch) (BitVec.ofNat 16 val)
  | .tper key => .tper (BitVec.ofNat 16 key)
  | .tlcnt key => .tlcnt (BitVec.ofNat 16 key)
  | .tplay key => .tplay (BitVec.ofNat 16 key)

/-- The assembler: a command for a well-formed term, nothing for any other (30_encoding.md R80), so that no operand is
ever narrowed (R72). -/
def Asm.assemble (a : Asm) : Option Instr :=
  if a.wellFormed then some a.toInstr else none

end Sys2Proof
end

