-- ==== Sys2Proof/Decode.lean ====
section
/-! DEFINITION. Decoding and encoding of command words (30_encoding.md R70 to R79), the byte lanes of 20_memory.md R51,
and the opcode table's match and mask columns. -/

namespace Sys2Proof

/-- OP, `cmd[31:28]` (30_encoding.md R70). -/
def opField (w : Word) : BitVec 4 := w.extractLsb' 28 4
/-- RSV, `cmd[27:24]` (30_encoding.md R70). -/
def rsvField (w : Word) : BitVec 4 := w.extractLsb' 24 4
/-- CH, `cmd[23:16]` (30_encoding.md R70). -/
def chField (w : Word) : BitVec 8 := w.extractLsb' 16 8
/-- VAL, `cmd[15:0]` (30_encoding.md R70). -/
def valField (w : Word) : BitVec 16 := w.extractLsb' 0 16

/-- A format-T command: CH is reserved and must be 0 (30_encoding.md R77). -/
def decodeTone (w : Word) (mk : BitVec 16 → Instr) : Decoded :=
  if chField w ≠ 0#8 then .illegal .toneChannel else .cmd (mk (valField w))

/-- The decode function of 30_encoding.md R74: total, exactly one outcome for each of the 2^32 words. -/
def decode (w : Word) : Decoded :=
  if rsvField w ≠ 0#4 then .illegal .reservedField
  else match (opField w).toNat with
    | 1 => .cmd (.scfg (chField w) (valField w))
    | 2 => .cmd (.sscl (chField w) (valField w))
    | 3 => decodeTone w .tper
    | 4 => decodeTone w .tlcnt
    | 5 => decodeTone w .tplay
    | _ => .illegal .reservedOpcode

/-- A word from its four fields, OP highest (30_encoding.md R70). -/
def packFields (op : BitVec 4) (ch : BitVec 8) (val : BitVec 16) : Word := op ++ 0#4 ++ ch ++ val

/-- The word of a command, from the layouts and the opcode map of 30_encoding.md R70, R71 and R80. -/
def encode : Instr → Word
  | .scfg ch val => packFields 0x1#4 ch val
  | .sscl ch val => packFields 0x2#4 ch val
  | .tper key => packFields 0x3#4 0#8 key
  | .tlcnt key => packFields 0x4#4 0#8 key
  | .tplay key => packFields 0x5#4 0#8 key

/-- The opcode table's "match" column (40_servo.md R102, R104; 41_tone.md R122, R126, R130). -/
def opcodeMatch : Instr → Word
  | .scfg _ _ => 0x10000000#32
  | .sscl _ _ => 0x20000000#32
  | .tper _ => 0x30000000#32
  | .tlcnt _ => 0x40000000#32
  | .tplay _ => 0x50000000#32

/-- The opcode table's "mask" column (40_servo.md R102, R104; 41_tone.md R122, R126, R130). -/
def opcodeMask : Instr → Word
  | .scfg _ _ => 0xFF000000#32
  | .sscl _ _ => 0xFF000000#32
  | .tper _ => 0xFFFF0000#32
  | .tlcnt _ => 0xFFFF0000#32
  | .tplay _ => 0xFFFF0000#32

/-- The byte lanes of a word, lane 0 (bits 7:0) first, lane 3 (bits 31:24) last (20_memory.md R51). -/
def lanesOf (w : Word) : List Byte :=
  [w.extractLsb' 0 8, w.extractLsb' 8 8, w.extractLsb' 16 8, w.extractLsb' 24 8]

/-- The word four byte lanes carry, lane 0 first (20_memory.md R51). -/
def wordOfLanes (l0 l1 l2 l3 : Byte) : Word := l3 ++ l2 ++ l1 ++ l0

/-- Decoding of the byte lanes of a command: four lanes are a word, any other number of bytes is none
(30_encoding.md R79). -/
def decodeLanes : List Byte → Decoded
  | [l0, l1, l2, l3] => decode (wordOfLanes l0 l1 l2 l3)
  | _ => .illegal .notOneWord

/-- The command word whose low `nbits` bits are `w`'s and whose other bits are 0. -/
def tableWord (nbits w : Nat) : Word := BitVec.ofNat 32 (w % 2 ^ nbits)

/-- The instruction the decoder reads from a word numbered as the opcode table numbers it, carried on the byte lanes;
none where the verdict is ILLEGAL. -/
def decodeTableWord (nbits w : Nat) : Option Instr :=
  match decodeLanes (lanesOf (tableWord nbits w)) with
  | .cmd i => some i
  | .illegal _ => none

end Sys2Proof
end

