-- ==== Sys2Proof/Machine/State.lean ====
section
/-! DEFINITION. The state of the TSU (10_state.md), the accesses and turns the model holds as data, and the state after
reset (R40). -/

namespace Sys2Proof.Machine

/-- A servo table slot, zero-based: 3 bits (10_state.md R32, R36). -/
abbrev Slot := Fin Config.nServo

/-- The outcome codes of 60_exceptions.md R160. The reserved values 0x0C .. 0xFF have no constructor: they are never
written. -/
inductive Code where
  | ok
  | illegal
  | invalidIndex
  | invalidAngle
  | zeroMax
  | repeatChannel
  | unconfigured
  | overangle
  | invalidKey
  | periodRange
  | loopRange
  | internal
deriving DecidableEq, Repr

/-- The sequencer state `S.seq` (10_state.md R34). -/
inductive Seq where
  | idle
  | playing
deriving DecidableEq, Repr

/-- The events of the history (10_state.md R41). -/
inductive Event where
  /-- One scaled angle leaves on the ServoOut port: slot 3 bits, raw 8 bits (10_state.md R36). -/
  | servoOut (slot : Slot) (raw : BitVec 8)
  | pwmClaim
  | pwmStart (period loops : Word)
  | pwmRelease
  | reset
deriving DecidableEq, Repr

/-- The model-level fault reasons of 60_exceptions.md R165, and no others. A fault sets the mark `State.fault` and the
machine goes on as the hardware does (10_state.md R42, 70_reset_and_hazards.md R191: no step is withheld), so `step`
answers `.next` in each case and never `.fault`. -/
inductive Fault where
  /-- Raised by a host access of a size other than 4 or at an offset not a multiple of 4 (20_memory.md R52). Safe: the
  mark stays, and every claim about a run assumes that it is NONE. -/
  | badAccess (off : Offset) (size : Nat)
  /-- Raised by a CMD write while PLAYING (60_exceptions.md R162). Safe, for the same reason. -/
  | overrun (w : Word)
  /-- Raised by SSCL where the scaled angle exceeds 180 (40_servo.md R106), which no state with the invariant of
  10_state.md R33 reaches. Safe, for the same reason. -/
  | scaleInvariant
deriving DecidableEq, Repr

/-- The refusals of the model. -/
inductive Refusal where
  /-- Raised by an arm of `exec` whose instruction has no meaning yet: no arm of this model. Safe: the machine stops. -/
  | notModelled (mnemonic : String)
deriving DecidableEq, Repr


/-- One action of the host's program (30_encoding.md R81, R82). -/
inductive HostOp where
  /-- `MemRead(BASE+off, size)` (00_scope.md R7, 10_state.md R37). -/
  | read (off : Offset) (size : Nat)
  /-- `MemWrite(BASE+off, size, data)` (00_scope.md R7, 10_state.md R37). -/
  | write (off : Offset) (size : Nat) (data : Word)
  /-- `waitidle`: reads STATUS, again and again until BUSY reads 0 (30_encoding.md R82). -/
  | waitIdle
deriving DecidableEq, Repr

/-- The TSU's response to a host access (10_state.md R37). -/
inductive Response where
  /-- OK to a read, with its data. -/
  | okRead (data : Word)
  /-- OK to a write. -/
  | okWrite
  /-- ERROR, with no data (20_memory.md R52). -/
  | error
deriving DecidableEq, Repr

/-- Which step comes next in the totally ordered sequence of steps (20_memory.md R59), and the reset input
(10_state.md R40, 60_exceptions.md R164). -/
inductive Turn where
  /-- The host issues its next access. -/
  | host
  /-- The PWM capability's step, if enabled (41_tone.md R134). -/
  | capability
  /-- The controller's completion step, if enabled (41_tone.md R136). -/
  | controller
  /-- The reset input, alone (or in the same cycle as an agent step, which is lost: R164). -/
  | reset
  /-- The reset input in the same cycle as a host access, which is lost (60_exceptions.md R164). -/
  | resetOverAccess
deriving DecidableEq, Repr

/-- The state: what the spec names (10_state.md), the OPEN parameters (00_scope.md R5), the host port's response, and
the model's own fields `prog`, `turns` and `draws`. INVENTORY.md lists each with its rule and reset value. -/
structure State where
  /-- The OPEN parameters (00_scope.md R5); `params.tickFreq` is what TICKFREQ reads (10_state.md R29). -/
  params : Params
  /-- ARG (10_state.md R22). -/
  arg : Word
  /-- STATUS.OVR (10_state.md R23). -/
  ovr : Bool
  /-- STATUS.CODE (10_state.md R23). -/
  code : Code
  /-- RESULT (10_state.md R26). -/
  result : Word
  /-- LOOPS (10_state.md R27). -/
  loops : Word
  /-- ERRVAL (10_state.md R28). -/
  errval : Word
  /-- `S.cfg[0..7]` (10_state.md R32). -/
  cfg : Vector (Option MaxAngle) Config.nServo
  /-- `S.seq` (10_state.md R34); STATUS.BUSY is read from it. -/
  seq : Seq
  /-- `S.pwm_claim` (10_state.md R35). -/
  pwmClaim : Bool
  /-- `S.pwm_period` (10_state.md R35). -/
  pwmPeriod : Word
  /-- `S.pwm_loops` (10_state.md R35). -/
  pwmLoops : Word
  /-- `S.pwm_run` (10_state.md R35). -/
  pwmRun : Bool
  /-- `S.pwm_done` (10_state.md R35). -/
  pwmDone : Bool
  /-- The event history, oldest first (10_state.md R41). -/
  history : List Event
  /-- The fault mark `S.fault` (10_state.md R42). -/
  fault : Option Fault
  /-- The response to the last host access; none before the first one after reset (10_state.md R37). -/
  resp : Option Response
  /-- The host's program: what it has still to do, in program order (00_scope.md R10; the model's own field). -/
  prog : List HostOp
  /-- The interleaving: whose step comes next (20_memory.md R59; the model's own field). -/
  turns : List Turn
  /-- How many values have been drawn from `Config.pwmDoneAfterReset` (the model's own field). -/
  draws : Nat
deriving DecidableEq, Repr

/-- The state right after power-up with the OPEN parameters `p` (10_state.md R40). `S.pwm_done` is unspecified there:
false here is a DESIGN CHOICE (log entry 3). The history holds the event `Reset` alone (70_reset_and_hazards.md R184). -/
def State.powerUp (p : Params) : State :=
  { params := p, arg := 0#32, ovr := false, code := .ok, result := 0#32, loops := 0#32, errval := 0#32,
    cfg := Vector.replicate Config.nServo none, seq := .idle, pwmClaim := false, pwmPeriod := 0#32,
    pwmLoops := 0#32, pwmRun := false, pwmDone := false, history := [.reset], fault := none, resp := none,
    prog := [], turns := [], draws := 0 }

/-- The machine right after reset (10_state.md R40). The OPEN parameters have no value in the spec: CFG-A of
92_eei_decisions.md D43 stands for them (DESIGN CHOICE, log entries 1 and 2). -/
def State.reset : State := State.powerUp Config.cfgA

end Sys2Proof.Machine
end

