-- ==== Sys2Proof/Machine/Flags.lean ====
section
/-! DEFINITION. The status flags (10_state.md R23, R39) and the numbers of the outcome codes (60_exceptions.md R160). -/

namespace Sys2Proof.Machine

/-- The number of an outcome code (60_exceptions.md R160). -/
def codeByte : Code → BitVec 8
  | .ok => 0x00#8
  | .illegal => 0x01#8
  | .invalidIndex => 0x02#8
  | .invalidAngle => 0x03#8
  | .zeroMax => 0x04#8
  | .repeatChannel => 0x05#8
  | .unconfigured => 0x06#8
  | .overangle => 0x07#8
  | .invalidKey => 0x08#8
  | .periodRange => 0x09#8
  | .loopRange => 0x0A#8
  | .internal => 0x0B#8

/-- STATUS.BUSY: 1 iff the sequencer is PLAYING; a function of `S.seq`, not stored (10_state.md R23, R34). -/
def busy (s : State) : Bool :=
  match s.seq with
  | .idle => false
  | .playing => true

/-- The word STATUS reads: BUSY bit 0, OVR bit 1, CODE bits 15:8, the reserved bits 0 (10_state.md R23). -/
def statusWord (s : State) : Word :=
  0#16 ++ codeByte s.code ++ 0#6 ++ BitVec.ofBool s.ovr ++ BitVec.ofBool (busy s)

/-- A host write to STATUS: write-1-to-clear of OVR, every other bit ignored (10_state.md R23). -/
def writeStatus (w : Word) (s : State) : State :=
  { s with ovr := s.ovr && !w.getLsbD 1 }

/-- `u[15:8]` of a word read from STATUS: the pseudo-instruction `code -> t` (30_encoding.md R82). -/
def codeOfStatus (u : Word) : BitVec 8 := u.extractLsb' 8 8

/-- `t[0]` of a word read from STATUS, which `waitidle` tests (30_encoding.md R82). -/
def busyOfStatus (t : Word) : Bool := t.getLsbD 0

end Sys2Proof.Machine
end

