-- ==== Sys2Proof/Machine/Operands.lean ====
section
/-! DEFINITION. The operands of the commands: value types and their validation (40_servo.md R100, R101; 41_tone.md
R120), and the widening of rejected raw values (10_state.md R28). -/

namespace Sys2Proof.Machine

/-- `zext_32` (00_scope.md R7). -/
def zext32 {n : Nat} (v : BitVec n) : Word := v.setWidth 32

/-- The slot of a raw one-based channel, none where the channel is not in 1..8 (40_servo.md R100, 10_state.md R32). -/
def slotOf (ch : BitVec 8) : Option Slot :=
  if h : 1 ≤ ch.toNat ∧ ch.toNat ≤ Config.nServo then some ⟨ch.toNat - 1, by omega⟩ else none

/-- The one-based channel of a slot (40_servo.md R100). -/
def channelOf (i : Slot) : BitVec 8 := BitVec.ofNat 8 (i.val + 1)

/-- A raw angle is valid iff it is at most 359 (40_servo.md R100). -/
def angleValid (val : BitVec 16) : Bool := val.toNat ≤ Config.angleMax

/-- A raw key is valid iff it is at most 127 (41_tone.md R120). -/
def keyValid (key : BitVec 16) : Bool := key.toNat ≤ Config.keyMax

end Sys2Proof.Machine
end

