-- ==== Sys2Proof/Machine/Ops.lean ====
section
/-! DEFINITION. The shared operations: events, the fault mark, the two ways a command ends, the servo table, floor
division, and the capability interface. -/

namespace Sys2Proof.Machine

/-- `emit E`: the event is recorded in the step that produces it (00_scope.md R7, 10_state.md R41). -/
def emit (e : Event) (s : State) : State := { s with history := s.history ++ [e] }

/-- `raise Fault(reason)`: sets the fault mark, which nothing clears (10_state.md R42, 60_exceptions.md R165). A later
fault's reason replaces an earlier one (DEDUCED, log entry 8). -/
def raiseFault (r : Fault) (s : State) : State := { s with fault := some r }

/-- `R[STATUS].CODE <- code`. -/
def setCode (c : Code) (s : State) : State := { s with code := c }

/-- `fail(code)`: ends a command; writes STATUS.CODE and has no other effect (00_scope.md R7, 60_exceptions.md R161). -/
def fail (c : Code) (s : State) : Host.Outcome State Fault Refusal := .next (setCode c s)

/-- `R[ERRVAL] <- v; fail(code)`: a failure that carries the rejected raw value (10_state.md R28). -/
def failWith (c : Code) (v : Word) (s : State) : Host.Outcome State Fault Refusal := fail c { s with errval := v }

/-- The end of a successful command: `R[STATUS].CODE <- OK` (60_exceptions.md R160, R161). -/
def succeed (s : State) : Host.Outcome State Fault Refusal := .next (setCode .ok s)

/-- ILLEGAL: `R[ERRVAL] <- cmd; fail(ERR_ILLEGAL)` (30_encoding.md R75). -/
def execIllegal (w : Word) (s : State) : Host.Outcome State Fault Refusal := failWith .illegal w s

/-- `S.cfg[i] <- SOME(val)`, the value in 9 bits (40_servo.md R102, 10_state.md R32). -/
def writeSlot (i : Slot) (val : BitVec 16) (s : State) : State :=
  { s with cfg := s.cfg.set i.val (some (val.setWidth 9)) i.isLt }

/-- `a div b`: floor division, which 00_scope.md R8 defines for `b >= 1`. With `b = 0`, which no command reaches in a
state with the invariant of 10_state.md R33, the quotient is a free value (log entry 10). -/
def floorDiv (a b : Nat) : Nat := if b = 0 then Config.quotientByZero a else a / b

/-- `S.pwm_claim <- 1; emit PwmClaim` (41_tone.md R130). -/
def claimChannel (s : State) : State := emit .pwmClaim { s with pwmClaim := true }

/-- `S.pwm_period <- t; S.pwm_loops <- L` (41_tone.md R130). -/
def configureCapability (t l : Word) (s : State) : State := { s with pwmPeriod := t, pwmLoops := l }

/-- `S.pwm_done <- 0` (41_tone.md R130). -/
def clearDone (s : State) : State := { s with pwmDone := false }

/-- `S.pwm_run <- 1; emit PwmStart(t, L)` (41_tone.md R130). -/
def startCapability (t l : Word) (s : State) : State := emit (.pwmStart t l) { s with pwmRun := true }

/-- The acceptance of a TPLAY, one atomic step, its parts in the order of 41_tone.md R131: claim, period and loop
count, clearing of the flag, start, PLAYING. -/
def acceptTone (t l : Word) (s : State) : State :=
  { startCapability t l (clearDone (configureCapability t l (claimChannel s))) with seq := .playing }

end Sys2Proof.Machine
end

