-- ==== Sys2Proof/Machine/Servo.lean ====
section
/-! DEFINITION. The servo commands SCFG and SSCL (40_servo.md). -/

namespace Sys2Proof.Machine

/-- SCFG (40_servo.md R102): INVALID_INDEX, INVALID_ANGLE, ZERO_MAX, REPEAT_CHANNEL, in this order; else the slot is
written once. -/
def execScfg (ch : BitVec 8) (val : BitVec 16) (s : State) : Host.Outcome State Fault Refusal :=
  match slotOf ch with
  | none => failWith .invalidIndex (zext32 ch) s
  | some i =>
    if !angleValid val then failWith .invalidAngle (zext32 val) s
    else if val.toNat = 0 then fail .zeroMax s
    else match s.cfg[i] with
      | some _ => fail .repeatChannel s
      | none => succeed (writeSlot i val s)

/-- The scaling law `(a * 180) div m` (40_servo.md R105). -/
def scaleAngle (a m : Nat) : Nat := floorDiv (a * Config.nativeMax) m

/-- The end of an SSCL with the quotient `raw`: the internal invariant of 40_servo.md R106, then RESULT and the
ServoOut event (40_servo.md R104). -/
def deliverAngle (i : Slot) (raw : Nat) (s : State) : Host.Outcome State Fault Refusal :=
  if raw > Config.nativeMax then fail .internal (raiseFault .scaleInvariant s)
  else succeed (emit (.servoOut i (BitVec.ofNat 8 raw)) { s with result := BitVec.ofNat 32 raw })

/-- SSCL (40_servo.md R104): INVALID_INDEX, INVALID_ANGLE, UNCONFIGURED, OVERANGLE, in this order; else the scaled angle
is delivered. -/
def execSscl (ch : BitVec 8) (val : BitVec 16) (s : State) : Host.Outcome State Fault Refusal :=
  match slotOf ch with
  | none => failWith .invalidIndex (zext32 ch) s
  | some i =>
    if !angleValid val then failWith .invalidAngle (zext32 val) s
    else match s.cfg[i] with
      | none => fail .unconfigured s
      | some m =>
        if val.toNat > m.toNat then fail .overangle s
        else deliverAngle i (scaleAngle val.toNat m.toNat) s

end Sys2Proof.Machine
end

