-- ==== Sys2Proof/Machine/Tone.lean ====
section
/-! DEFINITION. The period and loop-count functions and the tone commands TPER, TLCNT and TPLAY (41_tone.md). -/

namespace Sys2Proof.Machine

/-- The left side of the integer test of 41_tone.md R121: `(2 * F)^12 * 2^max(69 - k, 0)`. -/
def periodLhs (f k : Nat) : Nat := (2 * f) ^ Config.semitones * 2 ^ (Config.a4Key - k)

/-- The right side of that test for the candidate `n`: `(440 * (2*n + 1))^12 * 2^max(k - 69, 0)`. -/
def periodRhs (k n : Nat) : Nat := (Config.a4Hz * (2 * n + 1)) ^ Config.semitones * 2 ^ (k - Config.a4Key)

/-- The test of 41_tone.md R121 for the candidate `n`. -/
def periodTest (f k n : Nat) : Bool := periodLhs f k < periodRhs k n

/-- The least `n` in `acc .. acc + 2^bits - 1` that passes a monotone test, the last of them where none before it does:
one halving of the range per bit. -/
def leastPassing (test : Nat → Bool) : (bits acc : Nat) → Nat
  | 0, acc => acc
  | bits + 1, acc =>
    if test (acc + 2 ^ bits - 1) then leastPassing test bits acc else leastPassing test bits (acc + 2 ^ bits)

/-- `ticks(F, k)` (41_tone.md R121): the least `n >= 0` that passes the test, found among the 32-bit numbers, where it
lies for every F below 2^32 and every valid key. -/
def ticks (f k : Nat) : Nat := leastPassing (periodTest f k) 32 0

/-- `loops(D, F, t) = (D * F) div (2000 * t)` (41_tone.md R125). -/
def loopCount (d f t : Nat) : Nat := floorDiv (d * f) (Config.loopDiv * t)

/-- TPER (41_tone.md R122): a period of 0 is a result like any other. -/
def execTper (key : BitVec 16) (s : State) : Host.Outcome State Fault Refusal :=
  if !keyValid key then failWith .invalidKey (zext32 key) s
  else succeed { s with result := BitVec.ofNat 32 (ticks s.params.tickFreq.toNat key.toNat) }

/-- The checks and the result writes of TLCNT on the period `t` (41_tone.md R126). -/
def finishTlcnt (t : Nat) (s : State) : Host.Outcome State Fault Refusal :=
  if t = 0 then fail .periodRange s
  else if loopCount s.arg.toNat s.params.tickFreq.toNat t > 2 ^ 32 - 1 then fail .loopRange s
  else succeed { s with
    result := BitVec.ofNat 32 t
    loops := BitVec.ofNat 32 (loopCount s.arg.toNat s.params.tickFreq.toNat t) }

/-- TLCNT (41_tone.md R126): INVALID_KEY, PERIOD_RANGE, LOOP_RANGE, in this order; a loop count of 0 is a result. -/
def execTlcnt (key : BitVec 16) (s : State) : Host.Outcome State Fault Refusal :=
  if !keyValid key then failWith .invalidKey (zext32 key) s
  else finishTlcnt (ticks s.params.tickFreq.toNat key.toNat) s

/-- The effects of an accepted TPLAY: the results, CODE, then the acceptance (41_tone.md R130, R131). -/
def playTone (t l : Word) (s : State) : State :=
  acceptTone t l (setCode .ok { s with result := t, loops := l })

/-- The checks of TPLAY on the period `t`, with the capability's limits, and its acceptance (41_tone.md R130). -/
def finishTplay (t : Nat) (s : State) : Host.Outcome State Fault Refusal :=
  if t = 0 ∨ t > s.params.pwmPeriodMax.toNat then fail .periodRange s
  else if loopCount s.arg.toNat s.params.tickFreq.toNat t = 0
      ∨ loopCount s.arg.toNat s.params.tickFreq.toNat t > s.params.pwmLoopMax.toNat then fail .loopRange s
  else .next (playTone (BitVec.ofNat 32 t) (BitVec.ofNat 32 (loopCount s.arg.toNat s.params.tickFreq.toNat t)) s)

/-- TPLAY (41_tone.md R130): INVALID_KEY, PERIOD_RANGE, LOOP_RANGE, in this order; else the tone is accepted. The BUSY
check comes before any command is issued (60_exceptions.md R162, R163), in `writeCmd`. -/
def execTplay (key : BitVec 16) (s : State) : Host.Outcome State Fault Refusal :=
  if !keyValid key then failWith .invalidKey (zext32 key) s
  else finishTplay (ticks s.params.tickFreq.toNat key.toNat) s

end Sys2Proof.Machine
end

