-- ==== Sys2Proof/Machine/Dispatch.lean ====
section
/-! DEFINITION. One arm per command (30_encoding.md R71). -/

namespace Sys2Proof.Machine

/-- The command's effect in the step of its CMD write (20_memory.md R58). -/
def exec (i : Instr) (s : State) : Host.Outcome State Fault Refusal :=
  match i with
  | .scfg ch val => Sys2Proof.Machine.execScfg ch val s
  | .sscl ch val => Sys2Proof.Machine.execSscl ch val s
  | .tper key => Sys2Proof.Machine.execTper key s
  | .tlcnt key => Sys2Proof.Machine.execTlcnt key s
  | .tplay key => Sys2Proof.Machine.execTplay key s

end Sys2Proof.Machine
end

