-- ==== Sys2Proof/Machine/Window.lean ====
section
/-! DEFINITION. The register window: its map (10_state.md R20), what each slot reads (R21 to R31), and where the window
lies in the host's address space (20_memory.md R57). -/

namespace Sys2Proof.Machine

/-- The byte offsets of the named registers (10_state.md R20). -/
def cmdOff : Offset := 0x00#6
def argOff : Offset := 0x04#6
def statusOff : Offset := 0x08#6
def resultOff : Offset := 0x0C#6
def loopsOff : Offset := 0x10#6
def errvalOff : Offset := 0x14#6
def tickfreqOff : Offset := 0x18#6
def reservedOff : Offset := 0x1C#6
def servoOff (i : Slot) : Offset := BitVec.ofNat 6 (0x20 + 4 * i.val)

/-- An access is admitted only if its size is 4 bytes and its offset is a multiple of 4 (20_memory.md R52). -/
def admitted (off : Offset) (size : Nat) : Bool := size = Config.accessBytes && off.toNat % 4 = 0

/-- The word SERVOi reads: CFG in bit 31, MAX in bits 8:0, bits 30:9 zero (10_state.md R31). -/
def servoWord (i : Slot) (s : State) : Word :=
  match s.cfg[i] with
  | none => 0#32
  | some m => 1#1 ++ 0#22 ++ m

/-- What an admitted read of an offset returns (20_memory.md R53, 10_state.md R21 to R31). -/
def readWindow (off : Offset) (s : State) : Word :=
  match off.toNat / 4 with
  | 0 => 0#32
  | 1 => s.arg
  | 2 => statusWord s
  | 3 => s.result
  | 4 => s.loops
  | 5 => s.errval
  | 6 => s.params.tickFreq
  | 7 => 0#32
  | 8 => servoWord 0 s
  | 9 => servoWord 1 s
  | 10 => servoWord 2 s
  | 11 => servoWord 3 s
  | 12 => servoWord 4 s
  | 13 => servoWord 5 s
  | 14 => servoWord 6 s
  | _ => servoWord 7 s

/-- The host address of an offset of the window: `BASE+OFF` (30_encoding.md R81). -/
def busAddress (p : Params) (off : Offset) : Nat := p.base + off.toNat

/-- The offset a host address selects, none outside the window: decoding those is not the TSU's concern
(20_memory.md R57). -/
def windowOffset (p : Params) (addr : Nat) : Option Offset :=
  if p.base ≤ addr ∧ addr < p.base + Config.windowBytes then some (BitVec.ofNat 6 (addr - p.base)) else none

end Sys2Proof.Machine
end

