-- ==== Sys2Proof/Machine/HostPort.lean ====
section
/-! DEFINITION. Host accesses (20_memory.md R52 to R58), command issue (10_state.md R21, 60_exceptions.md R162), and the
host programs' primitives and pseudo-instructions (30_encoding.md R81, R82). -/

namespace Sys2Proof.Machine

/-- A CMD write while PLAYING: OVR set, the word discarded, nothing issued, `Fault(Overrun)` (60_exceptions.md R162). -/
def overrunCmd (w : Word) (s : State) : State := raiseFault (.overrun w) { s with ovr := true }

/-- The command a word issues while IDLE: the decoded command's rule, or ILLEGAL (10_state.md R21, 30_encoding.md R74). -/
def issueCmd (w : Word) (s : State) : Host.Outcome State Fault Refusal :=
  match decode w with
  | .illegal _ => execIllegal w s
  | .cmd i => exec i s

/-- A write to CMD: the busy check first, then the decode, then the command's own checks (60_exceptions.md R163). -/
def writeCmd (w : Word) (s : State) : Host.Outcome State Fault Refusal :=
  match s.seq with
  | .playing => .next (overrunCmd w s)
  | .idle => issueCmd w s

/-- The effect of an admitted write (20_memory.md R54): CMD, ARG and STATUS act, every other slot ignores it. -/
def writeWindow (off : Offset) (w : Word) (s : State) : Host.Outcome State Fault Refusal :=
  match off.toNat / 4 with
  | 0 => writeCmd w s
  | 1 => .next { s with arg := w }
  | 2 => .next (writeStatus w s)
  | _ => .next s

/-- An access that is not admitted: the ERROR response, no change of TSU state, `Fault(BadAccess)` (20_memory.md R52). -/
def badAccess (off : Offset) (size : Nat) (s : State) : State :=
  raiseFault (.badAccess off size) { s with resp := some .error }

/-- A host read: the register's value, no side effect (20_memory.md R52, R53). -/
def hostRead (off : Offset) (size : Nat) (s : State) : State :=
  if admitted off size then { s with resp := some (.okRead (readWindow off s)) } else badAccess off size s

/-- A host write and the whole execution of the command it issues, one step (20_memory.md R52, R54, R55). -/
def hostWrite (off : Offset) (size : Nat) (w : Word) (s : State) : Host.Outcome State Fault Refusal :=
  if admitted off size then writeWindow off w { s with resp := some .okWrite } else .next (badAccess off size s)

/-- One poll of `waitidle`: reads STATUS; the host goes on once BUSY reads 0 (30_encoding.md R82, 41_tone.md R139). -/
def pollIdle (s : State) : State :=
  let s' := hostRead statusOff Config.accessBytes s
  if busyOfStatus (readWindow statusOff s) then s' else { s' with prog := s.prog.tail }

/-- The host's step: its next access, in program order (00_scope.md R10, 20_memory.md R59). A host that has performed its
last access does nothing (70_reset_and_hazards.md R190). -/
def hostStep (s : State) : Host.Outcome State Fault Refusal :=
  match s.prog with
  | [] => .next s
  | .read off size :: rest => .next (hostRead off size { s with prog := rest })
  | .write off size w :: rest => hostWrite off size w { s with prog := rest }
  | .waitIdle :: _ => .next (pollIdle s)

/-- `wr OFF, V` (30_encoding.md R81). -/
def wr (off : Offset) (v : Word) : HostOp := .write off Config.accessBytes v
/-- `rd OFF` (30_encoding.md R81); the value read is in the response. -/
def rd (off : Offset) : HostOp := .read off Config.accessBytes
/-- `wr CMD, <command>` (30_encoding.md R80, R81). -/
def wrCmd (i : Instr) : HostOp := wr cmdOff (encode i)
/-- `play KEY, DUR` (30_encoding.md R82, 41_tone.md R139): D0's blocking `play_note`. -/
def playOps (key : BitVec 16) (dur : Word) : List HostOp := [wr argOff dur, wrCmd (.tplay key), .waitIdle]
/-- `loopcnt KEY, DUR` (30_encoding.md R82). -/
def loopcntOps (key : BitVec 16) (dur : Word) : List HostOp := [wr argOff dur, wrCmd (.tlcnt key)]
/-- `clrovr` (30_encoding.md R82). -/
def clrovrOps : List HostOp := [wr statusOff 0x00000002#32]
/-- `code -> t` reads STATUS (30_encoding.md R82); `codeOfStatus` takes the code from the word read. -/
def codeOps : List HostOp := [rd statusOff]

end Sys2Proof.Machine
end

