-- ==== Sys2Proof/Machine/Sequencer.lean ====
section
/-! DEFINITION. The agent steps of the tone sequencer (41_tone.md R134, R136) and the reset input (10_state.md R40). -/

namespace Sys2Proof.Machine

/-- The capability step, enabled while a started burst has not completed (41_tone.md R134); not enabled, it is not
taken (log entry 5). -/
def capabilityStep (s : State) : State :=
  if s.pwmRun = true ∧ s.pwmDone = false then { s with pwmDone := true, pwmRun := false } else s

/-- The completion step, enabled when PLAYING with the flag raised (41_tone.md R136). A poll that finds the flag 0
changes no state. -/
def completionStep (s : State) : State :=
  if s.seq = .playing ∧ s.pwmDone = true then { emit .pwmRelease { s with pwmClaim := false } with seq := .idle }
  else s

/-- The history a reset leaves: `PwmRelease` first where a burst was playing, then `Reset` (10_state.md R40). -/
def resetHistory (s : State) : List Event :=
  match s.seq with
  | .idle => s.history ++ [.reset]
  | .playing => s.history ++ [.pwmRelease, .reset]

/-- The reset input (10_state.md R40, 70_reset_and_hazards.md R180 to R182): every register at its reset value, the
parameters and the fault mark kept, `S.pwm_done` any value (log entry 4), the host and the interleaving outside its
reach (log entry 16). -/
def applyReset (s : State) : State :=
  { State.powerUp s.params with
    pwmDone := Config.pwmDoneAfterReset s.draws
    draws := s.draws + 1
    history := resetHistory s
    fault := s.fault
    prog := s.prog
    turns := s.turns }

/-- The host's program after an access is lost to a reset in the same cycle (60_exceptions.md R164): the access is
gone; a lost poll of `waitidle` is polled again (log entry 15). -/
def loseAccess : List HostOp → List HostOp
  | [] => []
  | .waitIdle :: rest => .waitIdle :: rest
  | .read _ _ :: rest => rest
  | .write _ _ _ :: rest => rest

/-- A reset in the same cycle as a host access: the reset state, the access lost (60_exceptions.md R164). -/
def resetOverAccess (s : State) : State := applyReset { s with prog := loseAccess s.prog }

end Sys2Proof.Machine
end

