-- ==== Sys2Proof/Machine/Step.lean ====
section
/-! DEFINITION. One step of the totally ordered sequence of steps (20_memory.md R59), and the placement of a command as
the next step. -/

namespace Sys2Proof.Machine

/-- The step of one turn (20_memory.md R59, 60_exceptions.md R164). -/
def takeTurn (t : Turn) (s : State) : Host.Outcome State Fault Refusal :=
  match t with
  | .host => hostStep s
  | .capability => .next (capabilityStep s)
  | .controller => .next (completionStep s)
  | .reset => .next (applyReset s)
  | .resetOverAccess => .next (resetOverAccess s)

/-- One step: the next turn of the interleaving; with no turn left, nothing moves (log entry 5). -/
def step (s : State) : Host.Outcome State Fault Refusal :=
  match s.turns with
  | [] => .next s
  | t :: rest => takeTurn t { s with turns := rest }

/-- The sequencer brought to IDLE, where it is not: only an IDLE sequencer issues a command (10_state.md R21). -/
def State.idled (s : State) : State :=
  match s.seq with
  | .idle => s
  | .playing => { s with seq := .idle, pwmClaim := false }

/-- The state whose very next step is the host's write of the word to CMD, with the sequencer IDLE: the TSU fetches no
instructions (10_state.md R24), a command arrives as data written to CMD (R21). Log entry 7. -/
def State.withFetchWord (s : State) (nbits w : Nat) : State :=
  { s.idled with prog := wr cmdOff (tableWord nbits w) :: s.prog, turns := .host :: s.turns }

end Sys2Proof.Machine
end

