-- ==== Sys2Proof/Safety.lean ====
section
/-! DEFINITION. The launch state and the end of a run (70_reset_and_hazards.md R184, R190), and the invariant of the
reachable states (10_state.md R33, R34; 41_tone.md R135, R138). -/

namespace Sys2Proof.Machine

/-- `CleanEntry` (70_reset_and_hazards.md R184): the reset values of 10_state.md R40, `S.pwm_done` any value, no fault,
the history `Reset` alone, the parameters in the ranges of 00_scope.md R5, no access answered yet (log entry 9). What the
host will do and how the steps fall is free. -/
abbrev CleanEntry (s : State) : Prop :=
  s.params.inRange = true ∧ s.arg = 0#32 ∧ s.ovr = false ∧ s.code = .ok ∧ s.result = 0#32 ∧ s.loops = 0#32 ∧
    s.errval = 0#32 ∧ (∀ i : Slot, s.cfg[i] = none) ∧ s.seq = .idle ∧ s.pwmClaim = false ∧ s.pwmPeriod = 0#32 ∧
    s.pwmLoops = 0#32 ∧ s.pwmRun = false ∧ s.history = [.reset] ∧ s.fault = none ∧ s.resp = none

/-- The end of a good run (70_reset_and_hazards.md R190): the host has performed its last access, no burst is in flight,
no fault was raised. -/
abbrev EndOfRun (s : State) : Prop := s.prog = [] ∧ s.seq = .idle ∧ s.fault = none

/-- The next turn is the reset input's, alone or over a host access (10_state.md R40, 60_exceptions.md R164). -/
abbrev ResetComes (s : State) : Prop := ∃ rest, s.turns = .reset :: rest ∨ s.turns = .resetOverAccess :: rest

/-- The next turn is the host's, whose next access is the 4-byte write of the word to CMD. -/
abbrev WritesCmd (s : State) (w : Word) : Prop :=
  ∃ rest ops, s.turns = .host :: rest ∧ s.prog = .write 0x00#6 4 w :: ops

/-- The step from `s` to `t` is a CMD write that decodes to TPLAY and passes its checks (41_tone.md R127, R130). -/
abbrev AcceptsTone (s t : State) : Prop :=
  s.seq = .idle ∧ t.seq = .playing ∧ t.code = .ok ∧ ∃ w key, WritesCmd s w ∧ decode w = .cmd (.tplay key)

/-- The cases of 60_exceptions.md R165: what the next turn must be for the fault to be raised. -/
def RaisesFault (s : State) : Fault → Prop
  | .badAccess off size =>
    ∃ (rest : List Turn) (ops : List HostOp), s.turns = .host :: rest ∧
      (s.prog = .read off size :: ops ∨ ∃ w, s.prog = .write off size w :: ops) ∧ (size ≠ 4 ∨ off.toNat % 4 ≠ 0)
  | .overrun w => WritesCmd s w ∧ s.seq = .playing
  | .scaleInvariant =>
    ∃ (w : Word) (ch : BitVec 8) (val : BitVec 16) (i : Slot) (m : MaxAngle), WritesCmd s w ∧ s.seq = .idle ∧
      decode w = .cmd (.sscl ch val) ∧ ch.toNat = i.val + 1 ∧ val.toNat ≤ 359 ∧ s.cfg[i] = some m ∧
      val.toNat ≤ m.toNat ∧ 180 < scaleAngle val.toNat m.toNat

/-- `S.cfg[i] == SOME(m)` implies `1 <= m <= 359` (10_state.md R33). -/
abbrev TableInRange (s : State) : Prop :=
  ∀ i : Slot, ∀ m ∈ s.cfg[i], 1 ≤ m.toNat ∧ m.toNat ≤ Config.angleMax

/-- `S.seq == PLAYING` iff `S.pwm_claim == 1` (10_state.md R34). -/
abbrev ClaimMatchesSeq (s : State) : Prop := s.seq = .playing ↔ s.pwmClaim = true

/-- The capability plays only while the sequencer is PLAYING, and there it either plays or has raised its flag
(41_tone.md R134 to R137). -/
abbrev CapabilityMatchesSeq (s : State) : Prop :=
  (s.seq = .idle → s.pwmRun = false) ∧ (s.seq = .playing → s.pwmRun = !s.pwmDone)

/-- A burst in flight is one the capability accepts, and RESULT, LOOPS and CODE are its own (41_tone.md R130, R136;
70_reset_and_hazards.md R186). -/
abbrev BurstIsLegal (s : State) : Prop :=
  s.seq = .playing →
    (s.pwmPeriod.toNat ≠ 0 ∧ s.pwmPeriod.toNat ≤ s.params.pwmPeriodMax.toNat) ∧
    (s.pwmLoops.toNat ≠ 0 ∧ s.pwmLoops.toNat ≤ s.params.pwmLoopMax.toNat) ∧
    s.result = s.pwmPeriod ∧ s.loops = s.pwmLoops ∧ s.code = .ok

/-- Where the port events stand in the claim, start, release order of 41_tone.md R130 and R136. -/
inductive Phase where
  | released
  | claimed
  | started
deriving DecidableEq, Repr

/-- The phase an event leads to, none where the event may not come (41_tone.md R131, R136, R138; 10_state.md R36,
R40): a claim only when released, then its start, then its release; angles of at most 180 and resets only when
released. -/
def nextPhase : Phase → Event → Option Phase
  | .released, .pwmClaim => some .claimed
  | .claimed, .pwmStart t l => if t = 0#32 ∨ l = 0#32 then none else some .started
  | .started, .pwmRelease => some .released
  | .released, .servoOut _ raw => if raw.toNat ≤ Config.nativeMax then some .released else none
  | .released, .reset => some .released
  | _, _ => none

/-- The phase a history leads to from `p`. -/
def historyPhase (p : Phase) : List Event → Option Phase
  | [] => some p
  | e :: es => (nextPhase p e).bind fun q => historyPhase q es

/-- The phase of a sequencer state. -/
def Seq.phase : Seq → Phase
  | .idle => .released
  | .playing => .started

/-- The port events so far are in order and stand where the sequencer stands (10_state.md R41, 41_tone.md R138). -/
abbrev HistoryMatchesSeq (s : State) : Prop := historyPhase .released s.history = some s.seq.phase

/-- The invariant of the reachable states. -/
structure Inv (s : State) : Prop where
  params : s.params.inRange = true
  table : TableInRange s
  claim : ClaimMatchesSeq s
  capability : CapabilityMatchesSeq s
  burst : BurstIsLegal s
  history : HistoryMatchesSeq s

/-- `k` steps of the machine (20_memory.md R59), stopping where a step answers no next state. -/
def run : Nat → State → Host.Outcome State Fault Refusal
  | 0, s => .next s
  | k + 1, s =>
    match step s with
    | .next t => run k t
    | .fault r => .fault r
    | .refused r => .refused r

end Sys2Proof.Machine
end

