-- ==== Sys2Proof/Certificates/Slice0/Obligations.lean ====
section
/-! DEFINITION. The statements for the provers. Each docstring names the rule of the spec it formalises, or says that it
is derived. -/

open Sys2Proof Sys2Proof.Machine

/-! ### Encoding -/

/-- 30_encoding.md R70, R74, R80: the decoder reads back every command from its word, whatever its operands. -/
def Obligations.DecodeInvertsEncode : Prop :=
  ∀ i : Instr, decode (encode i) = .cmd i

/-- 30_encoding.md R70, R74, R78: each command has exactly one word, so no bit of a decoded word is dropped. -/
def Obligations.EncodeInvertsDecode : Prop :=
  ∀ (w : Word) (i : Instr), decode w = .cmd i → encode i = w

/-- 30_encoding.md R71, R74, with the fields as numbers: OP is bits 31:28, RSV 27:24, CH 23:16, VAL 15:0. -/
def Obligations.DecodeFollowsOpcodeMap : Prop :=
  ∀ (w : Word) (op rsv ch val : Nat),
    op = w.toNat / 2 ^ 28 → rsv = w.toNat / 2 ^ 24 % 16 → ch = w.toNat / 2 ^ 16 % 256 → val = w.toNat % 2 ^ 16 →
    (rsv ≠ 0 → decode w = .illegal .reservedField) ∧
    (rsv = 0 → op = 1 → decode w = .cmd (.scfg (BitVec.ofNat 8 ch) (BitVec.ofNat 16 val))) ∧
    (rsv = 0 → op = 2 → decode w = .cmd (.sscl (BitVec.ofNat 8 ch) (BitVec.ofNat 16 val))) ∧
    (rsv = 0 → op = 3 → ch = 0 → decode w = .cmd (.tper (BitVec.ofNat 16 val))) ∧
    (rsv = 0 → op = 4 → ch = 0 → decode w = .cmd (.tlcnt (BitVec.ofNat 16 val))) ∧
    (rsv = 0 → op = 5 → ch = 0 → decode w = .cmd (.tplay (BitVec.ofNat 16 val))) ∧
    (rsv = 0 → 3 ≤ op → op ≤ 5 → ch ≠ 0 → decode w = .illegal .toneChannel) ∧
    (rsv = 0 → op = 0 ∨ 6 ≤ op → decode w = .illegal .reservedOpcode)

/-- 30_encoding.md R75, R76, R77: a reserved word issued while IDLE writes ERRVAL and CODE and nothing else. -/
def Obligations.ReservedWordsExecuteIllegal : Prop :=
  ∀ (w : Word) (s : State), s.seq = .idle →
    (w.toNat / 2 ^ 28 = 0 ∨ 6 ≤ w.toNat / 2 ^ 28 ∨ w.toNat / 2 ^ 24 % 16 ≠ 0 ∨
      (3 ≤ w.toNat / 2 ^ 28 ∧ w.toNat / 2 ^ 28 ≤ 5 ∧ w.toNat / 2 ^ 16 % 256 ≠ 0)) →
    writeCmd w s = .next { s with errval := w, code := .illegal }

/-- 95_test_vectors.md V-D1: the words written out there decode as the table says. -/
def Obligations.SpecWordsDecode : Prop :=
  decode 0x1003010E#32 = .cmd (.scfg 3#8 270#16) ∧
  decode 0x2003005A#32 = .cmd (.sscl 3#8 90#16) ∧
  decode 0x30000045#32 = .cmd (.tper 69#16) ∧
  decode 0x40000045#32 = .cmd (.tlcnt 69#16) ∧
  decode 0x50000080#32 = .cmd (.tplay 128#16) ∧
  decode 0x00000000#32 = .illegal .reservedOpcode ∧
  decode 0x60000000#32 = .illegal .reservedOpcode ∧
  decode 0xF0000000#32 = .illegal .reservedOpcode ∧
  decode 0x11030005#32 = .illegal .reservedField ∧
  decode 0x30010045#32 = .illegal .toneChannel ∧
  decode 0x40FF0000#32 = .illegal .toneChannel

/-- 30_encoding.md R80: a term whose operands fit their fields assembles to the word `{OP, 0, CH, VAL}`; any other is
refused. -/
def Obligations.AssemblerFollowsLayout : Prop :=
  ∀ ch val : Nat,
    (ch ≤ 255 → val ≤ 65535 →
      (∃ i, (Asm.scfg ch val).assemble = some i ∧ (encode i).toNat = 0x1 * 2 ^ 28 + ch * 2 ^ 16 + val) ∧
      (∃ i, (Asm.sscl ch val).assemble = some i ∧ (encode i).toNat = 0x2 * 2 ^ 28 + ch * 2 ^ 16 + val)) ∧
    (val ≤ 65535 →
      (∃ i, (Asm.tper val).assemble = some i ∧ (encode i).toNat = 0x3 * 2 ^ 28 + val) ∧
      (∃ i, (Asm.tlcnt val).assemble = some i ∧ (encode i).toNat = 0x4 * 2 ^ 28 + val) ∧
      (∃ i, (Asm.tplay val).assemble = some i ∧ (encode i).toNat = 0x5 * 2 ^ 28 + val)) ∧
    (255 < ch ∨ 65535 < val → (Asm.scfg ch val).assemble = none ∧ (Asm.sscl ch val).assemble = none) ∧
    (65535 < val → (Asm.tper val).assemble = none ∧ (Asm.tlcnt val).assemble = none ∧ (Asm.tplay val).assemble = none)

/-- 20_memory.md R51: lane 0 carries bits 7:0 and lane 3 bits 31:24; decoding from the lanes is decoding the word.
That another number of bytes is no command word is the model's verdict (30_encoding.md R79). -/
def Obligations.LanesAreLittleEndian : Prop :=
  (∀ l0 l1 l2 l3 : Byte,
    (wordOfLanes l0 l1 l2 l3).toNat = l0.toNat + l1.toNat * 2 ^ 8 + l2.toNat * 2 ^ 16 + l3.toNat * 2 ^ 24) ∧
  (∀ w : Word, decodeLanes (lanesOf w) = decode w) ∧
  (∀ bs : List Byte, bs.length ≠ 4 → decodeLanes bs = .illegal .notOneWord)

/-! ### A step runs the decoded command -/

/-- 10_state.md R21, 20_memory.md R58: when the host's next access is a 4-byte write of a word to CMD while IDLE, the
step is the decoded command's `exec`; around it the access leaves the host's program, its turn the interleaving (the
model's own fields), and the host port answers OK. -/
def Obligations.StepRunsDecodedCommand : Prop :=
  ∀ (s : State) (w : Word) (i : Instr) (ops : List HostOp) (rest : List Turn),
    s.turns = .host :: rest → s.prog = .write 0x00#6 4 w :: ops → s.seq = .idle → decode w = .cmd i →
    step s = exec i { s with turns := rest, prog := ops, resp := some .okWrite }

/-- The model's placement of a command (log entry 7): whatever the state, the very next step runs the decoded command,
from the same state with the sequencer IDLE. -/
def Obligations.FetchWordRunsDecodedCommand : Prop :=
  ∀ (s : State) (w : Word) (i : Instr), decode w = .cmd i →
    step (s.withFetchWord 32 w.toNat) = exec i { s.idled with resp := some .okWrite } ∧
    (s.seq = .idle → s.idled = s) ∧ s.idled.seq = .idle

/-! ### Servo commands -/

/-- 40_servo.md R102: what SCFG answers, for every channel, value and state; a slot is written once, in 9 bits. -/
def Obligations.ScfgFollowsItsRule : Prop :=
  ∀ (s : State) (ch : BitVec 8) (val : BitVec 16),
    encode (.scfg ch val) &&& 0xFF000000#32 = 0x10000000#32 ∧
    (ch.toNat = 0 ∨ 8 < ch.toNat →
      exec (.scfg ch val) s = .next { s with errval := BitVec.ofNat 32 ch.toNat, code := .invalidIndex }) ∧
    ∀ i : Slot, ch.toNat = i.val + 1 →
      (359 < val.toNat →
        exec (.scfg ch val) s = .next { s with errval := BitVec.ofNat 32 val.toNat, code := .invalidAngle }) ∧
      (val.toNat = 0 → exec (.scfg ch val) s = .next { s with code := .zeroMax }) ∧
      (1 ≤ val.toNat → val.toNat ≤ 359 → s.cfg[i] ≠ none →
        exec (.scfg ch val) s = .next { s with code := .repeatChannel }) ∧
      (1 ≤ val.toNat → val.toNat ≤ 359 → s.cfg[i] = none →
        ∃ m : MaxAngle, m.toNat = val.toNat ∧
          exec (.scfg ch val) s = .next { s with cfg := s.cfg.set i.val (some m) i.isLt, code := .ok })

/-- 40_servo.md R104: what SSCL answers, for every channel, value and state whose slot holds a maximum of at least 1
(10_state.md R33; a maximum of 0 is no reachable state, and the quotient is a free value there). -/
def Obligations.SsclFollowsItsRule : Prop :=
  ∀ (s : State) (ch : BitVec 8) (val : BitVec 16),
    encode (.sscl ch val) &&& 0xFF000000#32 = 0x20000000#32 ∧
    (ch.toNat = 0 ∨ 8 < ch.toNat →
      exec (.sscl ch val) s = .next { s with errval := BitVec.ofNat 32 ch.toNat, code := .invalidIndex }) ∧
    ∀ i : Slot, ch.toNat = i.val + 1 →
      (359 < val.toNat →
        exec (.sscl ch val) s = .next { s with errval := BitVec.ofNat 32 val.toNat, code := .invalidAngle }) ∧
      (val.toNat ≤ 359 → s.cfg[i] = none → exec (.sscl ch val) s = .next { s with code := .unconfigured }) ∧
      ∀ m : MaxAngle, val.toNat ≤ 359 → s.cfg[i] = some m → 1 ≤ m.toNat →
        (m.toNat < val.toNat → exec (.sscl ch val) s = .next { s with code := .overangle }) ∧
        (val.toNat ≤ m.toNat →
          ∃ (raw : BitVec 8) (res : Word), raw.toNat = val.toNat * 180 / m.toNat ∧ res.toNat = raw.toNat ∧
            exec (.sscl ch val) s =
              .next { s with result := res, history := s.history ++ [.servoOut i raw], code := .ok })

/-- 40_servo.md R105: the scaling law and its five properties. -/
def Obligations.ScalingLawIsFloor : Prop :=
  ∀ a m : Nat, 1 ≤ m → m ≤ 359 → a ≤ m →
    scaleAngle a m = a * 180 / m ∧
    scaleAngle a m ≤ 180 ∧
    (a = m → scaleAngle a m = 180) ∧
    (a = 0 → scaleAngle a m = 0) ∧
    (∀ b, a ≤ b → b ≤ m → scaleAngle a m ≤ scaleAngle b m) ∧
    scaleAngle a m * m ≤ a * 180 ∧ a * 180 < (scaleAngle a m + 1) * m

/-- 40_servo.md R106, derived: with the table in the range of 10_state.md R33, no command fails the internal check, so
ERR_INTERNAL and `Fault(ScaleInvariant)` are unreachable. -/
def Obligations.ScaleInvariantUnreachable : Prop :=
  ∀ (s t : State) (w : Word), TableInRange s → issueCmd w s = .next t →
    t.code ≠ .internal ∧ t.fault = s.fault

/-- 40_servo.md R100: the channel round trip and the angle bound. -/
def Obligations.ChannelRoundTrip : Prop :=
  (∀ ch : BitVec 8, 1 ≤ ch.toNat → ch.toNat ≤ 8 →
    ∃ i : Slot, slotOf ch = some i ∧ i.val = ch.toNat - 1 ∧ channelOf i = ch) ∧
  (∀ ch : BitVec 8, ch.toNat = 0 ∨ 8 < ch.toNat → slotOf ch = none) ∧
  (∀ i : Slot, slotOf (channelOf i) = some i) ∧
  (∀ val : BitVec 16, angleValid val = true ↔ val.toNat ≤ 359)

/-- 10_state.md R33: only a successful SCFG and reset write a slot; SCFG only from NONE; the stored maximum is in 1..359
in every state a run from power-up reaches, and after every step from a state where it is. -/
def Obligations.TableIsWriteOnce : Prop :=
  (∀ (k : Nat) (s t : State), CleanEntry s → run k s = .next t → TableInRange t) ∧
  ∀ s t : State, step s = .next t →
    (TableInRange s → TableInRange t) ∧
    ∀ i : Slot, t.cfg[i] ≠ s.cfg[i] →
      ((∃ rest, s.turns = .reset :: rest ∨ s.turns = .resetOverAccess :: rest) ∧ t.cfg[i] = none) ∨
      (s.cfg[i] = none ∧ s.seq = .idle ∧ t.code = .ok ∧
        ∃ (rest : List Turn) (ops : List HostOp) (w : Word) (ch : BitVec 8) (val : BitVec 16) (m : MaxAngle),
          s.turns = .host :: rest ∧ s.prog = .write 0x00#6 4 w :: ops ∧ decode w = .cmd (.scfg ch val) ∧
          ch.toNat = i.val + 1 ∧ m.toNat = val.toNat ∧ t.cfg[i] = some m)

/-! ### Period and loop count -/

/-- 41_tone.md R121, the integer procedure: `ticks` is the least candidate that passes the test. -/
def Obligations.TicksIsLeastPassing : Prop :=
  ∀ f k : Nat, f < 2 ^ 32 → k ≤ 127 →
    (2 * f) ^ 12 * 2 ^ (69 - k) < (440 * (2 * ticks f k + 1)) ^ 12 * 2 ^ (k - 69) ∧
    ∀ n, n < ticks f k → (440 * (2 * n + 1)) ^ 12 * 2 ^ (k - 69) ≤ (2 * f) ^ 12 * 2 ^ (69 - k)

/-- 41_tone.md R121, the real-number definition: `ticks` is `F / freq(k)` rounded to nearest, ties upward, with
`freq(k) = 440 * 2^((k - 69) / 12)`. -/
def Obligations.TicksIsRoundedQuotient : Prop :=
  ∀ f k : Nat, f < 2 ^ 32 → k ≤ 127 →
    (ticks f k : ℤ) = ⌊(f : ℝ) / (440 * (2 : ℝ) ^ (((k : ℝ) - 69) / 12)) + 1 / 2⌋

/-- 41_tone.md R121: the two sides of the integer test are equal for `n` exactly where `F / freq(k)` is `n + 1/2`; such a
tie is possible only where `69 - k` is a multiple of 12, and it is rounded upward. -/
def Obligations.TiesOnlyOctavesFromA4 : Prop :=
  ∀ f k n : Nat, 1 ≤ f → f < 2 ^ 32 → k ≤ 127 →
    (periodLhs f k = periodRhs k n ↔
      (f : ℝ) / (440 * (2 : ℝ) ^ (((k : ℝ) - 69) / 12)) = (n : ℝ) + 1 / 2) ∧
    (periodLhs f k = periodRhs k n → (12 : ℤ) ∣ 69 - (k : ℤ) ∧ ticks f k = n + 1)

/-- 41_tone.md R122, corner cases: the largest period is 525,326,924, so a period fits RESULT. -/
def Obligations.TicksFitsWord : Prop :=
  (∀ f k : Nat, f < 2 ^ 32 → k ≤ 127 → ticks f k ≤ 525326924) ∧ ticks (2 ^ 32 - 1) 0 = 525326924

/-- 41_tone.md R123 (a), (b), (c), (f), and the bound 6272 of (d). -/
def Obligations.TicksFallsWithKey : Prop :=
  ∀ f : Nat, 1 ≤ f → f < 2 ^ 32 →
    (∀ k l, k ≤ l → l ≤ 127 → ticks f l ≤ ticks f k) ∧
    ticks f 69 = (f + 220) / 440 ∧
    (∀ k, k + 12 ≤ 127 → 2 * ticks f (k + 12) ≤ ticks f k + 2 ∧ ticks f k ≤ 2 * ticks f (k + 12) + 2) ∧
    ((∀ k, k ≤ 127 → 1 ≤ ticks f k) ↔ 6272 ≤ f) ∧
    ticks 660 69 = 2

/-- 41_tone.md R123 (d), (e), over the real frequency `440 * 2^((k - 69) / 12)`. -/
def Obligations.PitchErrorIsBounded : Prop :=
  ∀ (f k : Nat) (freq : ℝ), f < 2 ^ 32 → k ≤ 127 → freq = 440 * (2 : ℝ) ^ (((k : ℝ) - 69) / 12) →
    (1 ≤ ticks f k ↔ freq / 2 ≤ (f : ℝ)) ∧
    (1 ≤ ticks f k → |(f : ℝ) / (ticks f k : ℝ) - freq| ≤ freq / (2 * (ticks f k : ℝ)))

/-- 41_tone.md R125: one floor of the exact quotient, the same as floors from left to right with the divisors in either
order, within the widths the rule states; and R124, the burst is at most the requested duration. -/
def Obligations.LoopCountIsFloor : Prop :=
  ∀ d f t : Nat, d < 2 ^ 32 → f < 2 ^ 32 → 1 ≤ t → t < 2 ^ 32 →
    loopCount d f t = d * f / (2000 * t) ∧
    loopCount d f t = d * f / 2000 / t ∧
    loopCount d f t = d * f / t / 2000 ∧
    d * f < 2 ^ 64 ∧ 2000 * t < 2 ^ 43 ∧
    loopCount d f t * (2000 * t) ≤ d * f

/-! ### Tone commands -/

/-- 41_tone.md R122: what TPER answers, for every key and state; RESULT holds the whole period. -/
def Obligations.TperFollowsItsRule : Prop :=
  ∀ (s : State) (key : BitVec 16),
    encode (.tper key) &&& 0xFFFF0000#32 = 0x30000000#32 ∧
    (127 < key.toNat →
      exec (.tper key) s = .next { s with errval := BitVec.ofNat 32 key.toNat, code := .invalidKey }) ∧
    (key.toNat ≤ 127 →
      ∃ r : Word, r.toNat = ticks s.params.tickFreq.toNat key.toNat ∧
        exec (.tper key) s = .next { s with result := r, code := .ok })

/-- 41_tone.md R126: what TLCNT answers, for every key, duration and state. -/
def Obligations.TlcntFollowsItsRule : Prop :=
  ∀ (s : State) (key : BitVec 16) (t l : Nat),
    t = ticks s.params.tickFreq.toNat key.toNat → l = s.arg.toNat * s.params.tickFreq.toNat / (2000 * t) →
    encode (.tlcnt key) &&& 0xFFFF0000#32 = 0x40000000#32 ∧
    (127 < key.toNat →
      exec (.tlcnt key) s = .next { s with errval := BitVec.ofNat 32 key.toNat, code := .invalidKey }) ∧
    (key.toNat ≤ 127 → t = 0 → exec (.tlcnt key) s = .next { s with code := .periodRange }) ∧
    (key.toNat ≤ 127 → t ≠ 0 → 2 ^ 32 - 1 < l → exec (.tlcnt key) s = .next { s with code := .loopRange }) ∧
    (key.toNat ≤ 127 → t ≠ 0 → l ≤ 2 ^ 32 - 1 →
      ∃ r n : Word, r.toNat = t ∧ n.toNat = l ∧
        exec (.tlcnt key) s = .next { s with result := r, loops := n, code := .ok })

/-- 41_tone.md R130: what TPLAY answers, for every key, duration and state; the acceptance claims, configures, clears
the flag, starts, and goes to PLAYING, in one step (R131). -/
def Obligations.TplayFollowsItsRule : Prop :=
  ∀ (s : State) (key : BitVec 16) (t l : Nat),
    t = ticks s.params.tickFreq.toNat key.toNat → l = s.arg.toNat * s.params.tickFreq.toNat / (2000 * t) →
    encode (.tplay key) &&& 0xFFFF0000#32 = 0x50000000#32 ∧
    (127 < key.toNat →
      exec (.tplay key) s = .next { s with errval := BitVec.ofNat 32 key.toNat, code := .invalidKey }) ∧
    (key.toNat ≤ 127 → t = 0 ∨ s.params.pwmPeriodMax.toNat < t →
      exec (.tplay key) s = .next { s with code := .periodRange }) ∧
    (key.toNat ≤ 127 → t ≠ 0 → t ≤ s.params.pwmPeriodMax.toNat → l = 0 ∨ s.params.pwmLoopMax.toNat < l →
      exec (.tplay key) s = .next { s with code := .loopRange }) ∧
    (key.toNat ≤ 127 → t ≠ 0 → t ≤ s.params.pwmPeriodMax.toNat → l ≠ 0 → l ≤ s.params.pwmLoopMax.toNat →
      ∃ r n : Word, r.toNat = t ∧ n.toNat = l ∧
        exec (.tplay key) s =
          .next { s with
            result := r, loops := n, code := .ok, pwmClaim := true, pwmPeriod := r, pwmLoops := n,
            pwmDone := false, pwmRun := true, seq := .playing,
            history := s.history ++ [.pwmClaim, .pwmStart r n] })

/-! ### Frames -/

/-- The frame of SCFG and SSCL (40_servo.md R102, R104): what each leaves as it was, in State and in the window; SCFG
writes no slot but its own. -/
def Obligations.ServoCommandFrames : Prop :=
  ∀ (s t : State) (ch : BitVec 8) (val : BitVec 16),
    (exec (.scfg ch val) s = .next t →
      t = { s with cfg := t.cfg, code := t.code, errval := t.errval } ∧
      (∀ j : Slot, ch.toNat ≠ j.val + 1 → t.cfg[j] = s.cfg[j]) ∧
      (∀ off : Offset, off.toNat / 4 ≠ 2 → off.toNat / 4 ≠ 5 → off.toNat / 4 ≠ 7 + ch.toNat →
        readWindow off t = readWindow off s)) ∧
    (exec (.sscl ch val) s = .next t → TableInRange s →
      t = { s with result := t.result, code := t.code, errval := t.errval, history := t.history } ∧
      (∀ off : Offset, off.toNat / 4 ≠ 2 → off.toNat / 4 ≠ 3 → off.toNat / 4 ≠ 5 →
        readWindow off t = readWindow off s))

/-- The frame of TPER, TLCNT and TPLAY (41_tone.md R122, R126, R130): what each leaves as it was, in State and in the
window; TPLAY touches the sequencer and the capability only where it succeeds. -/
def Obligations.ToneCommandFrames : Prop :=
  ∀ (s t : State) (key : BitVec 16),
    (exec (.tper key) s = .next t →
      t = { s with result := t.result, code := t.code, errval := t.errval } ∧
      (∀ off : Offset, off.toNat / 4 ≠ 2 → off.toNat / 4 ≠ 3 → off.toNat / 4 ≠ 5 →
        readWindow off t = readWindow off s)) ∧
    (exec (.tlcnt key) s = .next t →
      t = { s with result := t.result, loops := t.loops, code := t.code, errval := t.errval } ∧
      (∀ off : Offset, off.toNat / 4 ≠ 2 → off.toNat / 4 ≠ 3 → off.toNat / 4 ≠ 4 → off.toNat / 4 ≠ 5 →
        readWindow off t = readWindow off s)) ∧
    (exec (.tplay key) s = .next t →
      (t.code ≠ .ok → t = { s with code := t.code, errval := t.errval }) ∧
      (t.code = .ok →
        t = { s with
              result := t.result, loops := t.loops, code := t.code, pwmClaim := t.pwmClaim,
              pwmPeriod := t.pwmPeriod, pwmLoops := t.pwmLoops, pwmDone := t.pwmDone, pwmRun := t.pwmRun,
              seq := t.seq, history := t.history }) ∧
      (∀ off : Offset, off.toNat / 4 ≠ 2 → off.toNat / 4 ≠ 3 → off.toNat / 4 ≠ 4 → off.toNat / 4 ≠ 5 →
        readWindow off t = readWindow off s))

/-! ### Agent steps and reset -/

/-- 41_tone.md R134: the capability step, where it is enabled. -/
def Obligations.CapabilityStepRaisesFlag : Prop :=
  ∀ (s : State) (rest : List Turn), s.turns = .capability :: rest → s.pwmRun = true → s.pwmDone = false →
    step s = .next { s with turns := rest, pwmDone := true, pwmRun := false }

/-- 41_tone.md R136: the completion step, where it is enabled. -/
def Obligations.CompletionStepReleases : Prop :=
  ∀ (s : State) (rest : List Turn), s.turns = .controller :: rest → s.seq = .playing → s.pwmDone = true →
    step s = .next { s with turns := rest, pwmClaim := false, seq := .idle, history := s.history ++ [.pwmRelease] }

/-- The model's choice (log entry 5): a turn whose step is not enabled, a host with nothing left to do and an empty
interleaving change nothing else. -/
def Obligations.DisabledTurnsChangeNothing : Prop :=
  ∀ (s : State) (rest : List Turn),
    (s.turns = .capability :: rest → s.pwmRun = false ∨ s.pwmDone = true → step s = .next { s with turns := rest }) ∧
    (s.turns = .controller :: rest → s.seq = .idle ∨ s.pwmDone = false → step s = .next { s with turns := rest }) ∧
    (s.turns = .host :: rest → s.prog = [] → step s = .next { s with turns := rest }) ∧
    (s.turns = [] → step s = .next s)

/-- 10_state.md R40, 70_reset_and_hazards.md R180, R182: what a reset leaves, from any state; nothing is said of
`S.pwm_done`. -/
def Obligations.ResetGivesResetState : Prop :=
  ∀ (s : State) (rest : List Turn), s.turns = .reset :: rest →
    ∃ t, step s = .next t ∧
      t.arg = 0#32 ∧ t.ovr = false ∧ t.code = .ok ∧ t.result = 0#32 ∧ t.loops = 0#32 ∧ t.errval = 0#32 ∧
      t.params = s.params ∧ (∀ i : Slot, t.cfg[i] = none) ∧ t.seq = .idle ∧ t.pwmClaim = false ∧
      t.pwmPeriod = 0#32 ∧ t.pwmLoops = 0#32 ∧ t.pwmRun = false ∧ t.fault = s.fault ∧
      (s.seq = .idle → t.history = s.history ++ [.reset]) ∧
      (s.seq = .playing → t.history = s.history ++ [.pwmRelease, .reset]) ∧
      (∀ off : Offset, off.toNat / 4 ≠ 6 → readWindow off t = 0#32) ∧
      (∀ off : Offset, off.toNat / 4 = 6 → readWindow off t = s.params.tickFreq)

/-- 60_exceptions.md R164: a reset in the same cycle as a host access is that reset, the access lost. What the host does
then is the model's choice: it goes on with its next access, polls again where a poll of `waitidle` was lost (log entry
15), and keeps what it has to do across the reset (log entry 16). -/
def Obligations.ResetLosesAccess : Prop :=
  ∀ (s : State) (rest : List Turn) (ops : List HostOp), s.turns = .resetOverAccess :: rest →
    (∀ (off : Offset) (size : Nat) (w : Word), s.prog = .read off size :: ops ∨ s.prog = .write off size w :: ops →
      step s = step { s with turns := .reset :: rest, prog := ops } ∧
      ∃ t, step s = .next t ∧ t.prog = ops ∧ t.turns = rest) ∧
    (s.prog = .waitIdle :: ops ∨ s.prog = [] →
      step s = step { s with turns := .reset :: rest } ∧ ∃ t, step s = .next t ∧ t.prog = s.prog ∧ t.turns = rest)

/-- 10_state.md R40 and 70_reset_and_hazards.md R184, field by field: what power-up gives, for all parameters; nothing is
said of `S.pwm_done`. With the parameters in range it is a state of `CleanEntry`. That the host port has no response yet
is the model's choice (log entry 9), and so are the parameters of `State.reset` (log entry 1). -/
def Obligations.PowerUpIsCleanEntry : Prop :=
  (∀ (p : Params) (s : State), s = State.powerUp p →
    s.params = p ∧ s.arg = 0#32 ∧ s.ovr = false ∧ s.code = .ok ∧ s.result = 0#32 ∧ s.loops = 0#32 ∧
    s.errval = 0#32 ∧ (∀ i : Slot, s.cfg[i] = none) ∧ s.seq = .idle ∧ s.pwmClaim = false ∧ s.pwmPeriod = 0#32 ∧
    s.pwmLoops = 0#32 ∧ s.pwmRun = false ∧ s.history = [.reset] ∧ s.fault = none ∧
    (∀ off : Offset, off.toNat / 4 ≠ 6 → readWindow off s = 0#32) ∧
    (∀ off : Offset, off.toNat / 4 = 6 → readWindow off s = p.tickFreq) ∧
    (p.inRange = true → CleanEntry s)) ∧
  CleanEntry State.reset

/-! ### The sequencer -/

/-- 41_tone.md R137: an accepted TPLAY starts with the flag 0, and BUSY stays 1 through every run of host accesses and
controller turns: only the capability's step (or a reset) comes between acceptance and completion. -/
def Obligations.ToneNeverEndsEarly : Prop :=
  (∀ (s t : State) (key : BitVec 16), exec (.tplay key) s = .next t → t.code = .ok →
    t.seq = .playing ∧ t.pwmDone = false) ∧
  (∀ (k : Nat) (s : State), s.seq = .playing → s.pwmDone = false →
    (∀ u ∈ s.turns.take k, u = .host ∨ u = .controller) →
    ∃ t, run k s = .next t ∧ t.seq = .playing ∧ t.pwmDone = false ∧ (statusWord t).getLsbD 0 = true)

/-- 41_tone.md R127: the sequencer moves only by an accepted TPLAY, the completion step and reset. -/
def Obligations.SequencerMovesOnlyByRule : Prop :=
  ∀ s t : State, step s = .next t → s.seq ≠ t.seq →
    (s.seq = .idle ∧ t.seq = .playing ∧ t.code = .ok ∧
      ∃ (rest : List Turn) (ops : List HostOp) (w : Word) (key : BitVec 16),
        s.turns = .host :: rest ∧ s.prog = .write 0x00#6 4 w :: ops ∧ decode w = .cmd (.tplay key)) ∨
    (s.seq = .playing ∧ t.seq = .idle ∧
      ∃ rest, (s.turns = .controller :: rest ∧ s.pwmDone = true) ∨ s.turns = .reset :: rest ∨
        s.turns = .resetOverAccess :: rest)

/-- 41_tone.md R140, bounded: from PLAYING, once the interleaving has given the capability a turn and later the
controller one, with no reset, the burst has completed and released the channel, whatever the host did. -/
def Obligations.BurstCompletes : Prop :=
  ∀ (s : State) (before between after : List Turn), Inv s → s.seq = .playing →
    s.turns = before ++ .capability :: (between ++ .controller :: after) →
    (∀ u ∈ before ++ between, u ≠ .reset ∧ u ≠ .resetOverAccess) →
    ∃ (k : Nat) (t : State), k ≤ before.length + between.length + 2 ∧ run k s = .next t ∧ t.seq = .idle ∧
      ∃ es, t.history = s.history ++ es ∧ .pwmRelease ∈ es

/-- 41_tone.md R139, 30_encoding.md R82: the blocking `play KEY, DUR` of a host. An accepted tone: for every number of
polls before and after the capability's step, the host goes on only after the completion step. A failing one: the
first poll lets the host go on, with the error in CODE. -/
def Obligations.PlayBlocksUntilRelease : Prop :=
  ∀ (s : State) (key : BitVec 16) (dur : Word) (t l n m : Nat) (ops : List HostOp) (after : List Turn),
    s.seq = .idle → s.prog = playOps key dur ++ ops →
    t = ticks s.params.tickFreq.toNat key.toNat → l = dur.toNat * s.params.tickFreq.toNat / (2000 * t) →
    (key.toNat ≤ 127 → t ≠ 0 → t ≤ s.params.pwmPeriodMax.toNat → l ≠ 0 → l ≤ s.params.pwmLoopMax.toNat →
      s.turns = [.host, .host] ++ List.replicate n .host ++ [.capability] ++ List.replicate m .host ++
        [.controller, .host] ++ after →
      ∃ (u : State) (r c : Word), run (n + m + 5) s = .next u ∧ r.toNat = t ∧ c.toNat = l ∧
        u.prog = ops ∧ u.turns = after ∧ u.seq = .idle ∧ u.code = .ok ∧ u.result = r ∧ u.loops = c ∧
        u.arg = dur ∧ u.cfg = s.cfg ∧ u.fault = s.fault ∧
        u.history = s.history ++ [.pwmClaim, .pwmStart r c, .pwmRelease]) ∧
    (127 < key.toNat ∨ t = 0 ∨ s.params.pwmPeriodMax.toNat < t ∨ l = 0 ∨ s.params.pwmLoopMax.toNat < l →
      s.turns = [.host, .host, .host] ++ after →
      ∃ u : State, run 3 s = .next u ∧ u.prog = ops ∧ u.turns = after ∧ u.seq = .idle ∧ u.code ≠ .ok ∧
        u.arg = dur ∧ u.cfg = s.cfg ∧ u.fault = s.fault ∧ u.history = s.history ∧ u.result = s.result ∧
        u.loops = s.loops)

/-! ### Whole-machine rules -/

/-- 70_reset_and_hazards.md R191, derived: no step is withheld. Every step and every command answers a next state. That a
turn whose step is not enabled and an empty interleaving answer one too is the model's choice (log entry 5), and that a
fault is a mark in a next state is its reading of R191 (log entry 8). -/
def Obligations.StepAlwaysAnswersNext : Prop :=
  (∀ s : State, ∃ t, step s = .next t) ∧ (∀ (i : Instr) (s : State), ∃ t, exec i s = .next t)

/-- 10_state.md R33, R34; 41_tone.md R130, R134 to R138, derived: every step keeps the invariant, from every state that
meets it. -/
def Obligations.StepKeepsInv : Prop :=
  ∀ s t : State, Inv s → step s = .next t → Inv t

/-- The invariant holds right after power-up, for all parameters in range (10_state.md R40, 00_scope.md R5). -/
def Obligations.PowerUpMeetsInv : Prop :=
  (∀ p : Params, p.inRange = true → Inv (State.powerUp p)) ∧ Inv State.reset

/-- 60_exceptions.md R165: the fault mark is set by an access that is not admitted, by a CMD write while BUSY and by the
check of 40_servo.md R106, in each of these cases, by nothing else, and nothing clears it. Which reason the mark shows
where a fault already stood is not said here (log entry 8). The check of R106 needs a stored maximum of 0, which no
reachable state holds, and the quotient there is a free value (log entry 10): that case can be neither shown nor ruled
out on a concrete state. -/
def Obligations.FaultsAreExactlyThese : Prop :=
  ∀ s t : State, step s = .next t →
    (s.fault ≠ none → t.fault ≠ none) ∧
    (t.fault = s.fault ∨ ∃ r, RaisesFault s r ∧ t.fault = some r) ∧
    (∀ r, RaisesFault s r → t.fault ≠ none ∧ (s.fault = none → t.fault = some r)) ∧
    (RaisesFault s .scaleInvariant → t.code = .internal ∧ t.result = s.result ∧ t.history = s.history)

/-- 20_memory.md R52: an access that is not admitted gets ERROR, changes no TSU state and raises `Fault(BadAccess)`.
Which reason the mark shows where a fault already stood is not said here. -/
def Obligations.BadAccessChangesNothing : Prop :=
  ∀ (s : State) (rest : List Turn) (ops : List HostOp) (off : Offset) (size : Nat) (w : Word),
    s.turns = .host :: rest → s.prog = .read off size :: ops ∨ s.prog = .write off size w :: ops →
    size ≠ 4 ∨ off.toNat % 4 ≠ 0 →
    ∃ f : Fault, (s.fault = none → f = .badAccess off size) ∧
      step s = .next { s with turns := rest, prog := ops, resp := some .error, fault := some f }

/-- 60_exceptions.md R162: a CMD write while PLAYING sets OVR, gets OK, raises `Fault(Overrun)` and issues nothing.
Which reason the mark shows where a fault already stood is not said here. -/
def Obligations.OverrunIssuesNothing : Prop :=
  ∀ (s : State) (rest : List Turn) (ops : List HostOp) (w : Word),
    s.turns = .host :: rest → s.prog = .write 0x00#6 4 w :: ops → s.seq = .playing →
    ∃ f : Fault, (s.fault = none → f = .overrun w) ∧
      step s = .next { s with turns := rest, prog := ops, resp := some .okWrite, ovr := true, fault := some f }

/-- 10_state.md R39: OVR is set only by a CMD write while BUSY and cleared only by a write of 1 and by reset; CODE is
written only by an issued command and by reset. -/
def Obligations.FlagsHaveOnlyTheirWriters : Prop :=
  ∀ s t : State, step s = .next t →
    (s.ovr = false → t.ovr = true →
      s.seq = .playing ∧ ∃ rest ops w, s.turns = .host :: rest ∧ s.prog = .write 0x00#6 4 w :: ops) ∧
    (s.ovr = true → t.ovr = false →
      (∃ rest ops w, s.turns = .host :: rest ∧ s.prog = .write 0x08#6 4 w :: ops ∧ w.getLsbD 1 = true) ∨
      ∃ rest, s.turns = .reset :: rest ∨ s.turns = .resetOverAccess :: rest) ∧
    (t.code ≠ s.code →
      (s.seq = .idle ∧ ∃ rest ops w, s.turns = .host :: rest ∧ s.prog = .write 0x00#6 4 w :: ops) ∨
      ∃ rest, s.turns = .reset :: rest ∨ s.turns = .resetOverAccess :: rest)

/-- 20_memory.md R53: an admitted read answers the register's value and has no side effect; every register reads the
same after it. -/
def Obligations.ReadsHaveNoSideEffect : Prop :=
  ∀ (s : State) (rest : List Turn) (ops : List HostOp) (off : Offset),
    s.turns = .host :: rest → s.prog = .read off 4 :: ops → off.toNat % 4 = 0 →
    ∃ t, step s = .next t ∧
      t = { s with turns := rest, prog := ops, resp := some (.okRead (readWindow off s)) } ∧
      ∀ o : Offset, readWindow o t = readWindow o s

/-- 60_exceptions.md R161: a failing command writes CODE, and ERRVAL only with one of the four codes of
10_state.md R28, and nothing else; a successful one writes CODE = OK and leaves ERRVAL. The premise is the table
invariant of R33. -/
def Obligations.FailingCommandsArePrecise : Prop :=
  ∀ (w : Word) (s t : State), TableInRange s → issueCmd w s = .next t →
    (t.code ≠ .ok →
      t = { s with code := t.code, errval := t.errval } ∧
      (t.code ≠ .illegal → t.code ≠ .invalidIndex → t.code ≠ .invalidAngle → t.code ≠ .invalidKey →
        t.errval = s.errval)) ∧
    (t.code = .ok → t.errval = s.errval ∧ ∃ i, decode w = .cmd i)

/-- 10_state.md R28: the rejected raw value that each of the four codes leaves in ERRVAL. -/
def Obligations.ErrvalHoldsRejectedValue : Prop :=
  ∀ (w : Word) (s t : State), issueCmd w s = .next t →
    (t.code = .illegal → t.errval = w) ∧
    (t.code = .invalidIndex → t.errval.toNat = w.toNat / 2 ^ 16 % 256) ∧
    (t.code = .invalidAngle → t.errval.toNat = w.toNat % 2 ^ 16) ∧
    (t.code = .invalidKey → t.errval.toNat = w.toNat % 2 ^ 16)

/-- 10_state.md R41, derived: the history is append-only, and no rule reads it. -/
def Obligations.HistoryIsAppendOnlyAndUnread : Prop :=
  ∀ (s t : State), step s = .next t →
    ∃ es, t.history = s.history ++ es ∧
      ∀ h : List Event, step { s with history := h } = .next { t with history := h ++ es }

/-- 10_state.md R40 and 93 I5, derived: while IDLE no rule reads `S.pwm_done`, and an accepted TPLAY clears it. -/
def Obligations.PwmDoneUnreadWhileIdle : Prop :=
  ∀ (s t : State) (b : Bool), s.seq = .idle → s.pwmRun = false → step s = .next t →
    ∃ b', step { s with pwmDone := b } = .next { t with pwmDone := b' } ∧
      (t.seq = .playing → b' = false ∧ t.pwmDone = false)

/-! ### The register window and host programs -/

/-- 10_state.md R20: what each offset of the window reads. -/
def Obligations.WindowMapReads : Prop :=
  ∀ s : State,
    readWindow 0x00#6 s = 0#32 ∧ readWindow 0x04#6 s = s.arg ∧ readWindow 0x08#6 s = statusWord s ∧
    readWindow 0x0C#6 s = s.result ∧ readWindow 0x10#6 s = s.loops ∧ readWindow 0x14#6 s = s.errval ∧
    readWindow 0x18#6 s = s.params.tickFreq ∧ readWindow 0x1C#6 s = 0#32 ∧
    ∀ i : Slot, readWindow (BitVec.ofNat 6 (0x20 + 4 * i.val)) s = servoWord i s

/-- 10_state.md R23: the fields of STATUS, and the write-1-to-clear of OVR, every other bit of the word ignored. -/
def Obligations.StatusLayoutAndClear : Prop :=
  ∀ s : State,
    ((statusWord s).getLsbD 0 = true ↔ s.seq = .playing) ∧
    (statusWord s).getLsbD 1 = s.ovr ∧
    (statusWord s).extractLsb' 8 8 = codeByte s.code ∧
    (∀ j, 2 ≤ j → j ≤ 7 ∨ 16 ≤ j → (statusWord s).getLsbD j = false) ∧
    ∀ (rest : List Turn) (ops : List HostOp) (w : Word),
      s.turns = .host :: rest → s.prog = .write 0x08#6 4 w :: ops →
      step s = .next { s with
        turns := rest, prog := ops, resp := some .okWrite, ovr := if w.getLsbD 1 then false else s.ovr }

/-- 10_state.md R31: the fields of SERVOi. -/
def Obligations.ServoViewLayout : Prop :=
  ∀ (s : State) (i : Slot),
    (s.cfg[i] = none → servoWord i s = 0#32) ∧
    ∀ m : MaxAngle, s.cfg[i] = some m →
      (servoWord i s).getLsbD 31 = true ∧ (servoWord i s).extractLsb' 0 9 = m ∧
      ∀ j, 9 ≤ j → j ≤ 30 → (servoWord i s).getLsbD j = false

/-- 20_memory.md R54: a write to RESULT, LOOPS, ERRVAL, TICKFREQ, 0x1C or SERVOi gets OK and changes no state. -/
def Obligations.ReadOnlySlotsIgnoreWrites : Prop :=
  ∀ (s : State) (rest : List Turn) (ops : List HostOp) (off : Offset) (w : Word),
    s.turns = .host :: rest → s.prog = .write off 4 w :: ops → off.toNat % 4 = 0 → 0x0C ≤ off.toNat →
    step s = .next { s with turns := rest, prog := ops, resp := some .okWrite }

/-- 10_state.md R22: ARG stores the word, in either sequencer state, with no other effect; a read returns it; no command
writes it. -/
def Obligations.ArgHoldsDuration : Prop :=
  (∀ (s : State) (rest : List Turn) (ops : List HostOp) (w : Word),
    s.turns = .host :: rest → s.prog = .write 0x04#6 4 w :: ops →
    ∃ t, step s = .next t ∧ t = { s with turns := rest, prog := ops, resp := some .okWrite, arg := w } ∧
      readWindow 0x04#6 t = w) ∧
  (∀ (i : Instr) (s t : State), exec i s = .next t → t.arg = s.arg) ∧
  (∀ p : Params, (State.powerUp p).arg = 0#32)

/-- 10_state.md R29: TICKFREQ always reads the parameter, which no step changes. -/
def Obligations.TickfreqIsFixed : Prop :=
  ∀ s t : State, step s = .next t →
    t.params = s.params ∧ readWindow 0x18#6 t = s.params.tickFreq ∧ readWindow 0x18#6 s = s.params.tickFreq

/-- 60_exceptions.md R160, the numbers of the codes. -/
def Obligations.OutcomeCodeNumbers : Prop :=
  codeByte .ok = 0x00#8 ∧ codeByte .illegal = 0x01#8 ∧ codeByte .invalidIndex = 0x02#8 ∧
  codeByte .invalidAngle = 0x03#8 ∧ codeByte .zeroMax = 0x04#8 ∧ codeByte .repeatChannel = 0x05#8 ∧
  codeByte .unconfigured = 0x06#8 ∧ codeByte .overangle = 0x07#8 ∧ codeByte .invalidKey = 0x08#8 ∧
  codeByte .periodRange = 0x09#8 ∧ codeByte .loopRange = 0x0A#8 ∧ codeByte .internal = 0x0B#8

/-- 30_encoding.md R82: one poll of `waitidle` is a read of STATUS; the host goes on iff BUSY reads 0. -/
def Obligations.WaitidlePollsStatus : Prop :=
  ∀ (s : State) (rest : List Turn) (ops : List HostOp), s.turns = .host :: rest → s.prog = .waitIdle :: ops →
    (s.seq = .idle →
      step s = .next { s with turns := rest, prog := ops, resp := some (.okRead (statusWord s)) }) ∧
    (s.seq = .playing →
      step s = .next { s with turns := rest, prog := .waitIdle :: ops, resp := some (.okRead (statusWord s)) })

/-- 20_memory.md R56, 40_servo.md R102: two equal SCFG words give OK and then ERR_REPEAT_CHANNEL; the table keeps the
first configuration. -/
def Obligations.RepeatedScfgIsRejected : Prop :=
  ∀ (s : State) (rest : List Turn) (ops : List HostOp) (w : Word) (ch : BitVec 8) (val : BitVec 16) (i : Slot),
    s.seq = .idle → s.turns = .host :: .host :: rest → s.prog = .write 0x00#6 4 w :: .write 0x00#6 4 w :: ops →
    decode w = .cmd (.scfg ch val) → ch.toNat = i.val + 1 → 1 ≤ val.toNat → val.toNat ≤ 359 → s.cfg[i] = none →
    ∃ (t u : State) (m : MaxAngle), step s = .next t ∧ t.code = .ok ∧ m.toNat = val.toNat ∧ t.cfg[i] = some m ∧
      step t = .next u ∧ u.code = .repeatChannel ∧ u.cfg = t.cfg

/-- 20_memory.md R57, derived: the window's 64 offsets and the host addresses from BASE on correspond; no other address
selects an offset. That addresses are natural numbers, which do not wrap, is the model's choice (log entry 2). -/
def Obligations.BusAddressSelectsOffset : Prop :=
  ∀ (p : Params) (off : Offset) (addr : Nat),
    (windowOffset p addr = some off ↔ addr = busAddress p off) ∧
    (addr < p.base ∨ p.base + 64 ≤ addr → windowOffset p addr = none)

/-- 10_state.md R35, 41_tone.md R135, derived: who writes the capability's interface. The period and the loop count change
only at an accepted TPLAY, to its results, and at reset; the claim at these and at the completion step; the capability is
started by an accepted TPLAY alone and stops at its own step or at reset; the flag is raised by that step alone and cleared
by an accepted TPLAY alone, but for the unspecified value a reset leaves. -/
def Obligations.CapabilityStateHasOnlyItsWriters : Prop :=
  ∀ s t : State, step s = .next t →
    (t.pwmPeriod ≠ s.pwmPeriod ∨ t.pwmLoops ≠ s.pwmLoops →
      (AcceptsTone s t ∧ t.pwmPeriod = t.result ∧ t.pwmLoops = t.loops) ∨
      (ResetComes s ∧ t.pwmPeriod = 0#32 ∧ t.pwmLoops = 0#32)) ∧
    (t.pwmClaim ≠ s.pwmClaim →
      (AcceptsTone s t ∧ t.pwmClaim = true) ∨ (ResetComes s ∧ t.pwmClaim = false) ∨
      (t.pwmClaim = false ∧ s.seq = .playing ∧ s.pwmDone = true ∧ ∃ rest, s.turns = .controller :: rest)) ∧
    (s.pwmRun = false → t.pwmRun = true → AcceptsTone s t) ∧
    (s.pwmRun = true → t.pwmRun = false →
      ResetComes s ∨ (s.pwmDone = false ∧ t.pwmDone = true ∧ ∃ rest, s.turns = .capability :: rest)) ∧
    (s.pwmDone = false → t.pwmDone = true →
      ResetComes s ∨ (s.pwmRun = true ∧ t.pwmRun = false ∧ ∃ rest, s.turns = .capability :: rest)) ∧
    (s.pwmDone = true → t.pwmDone = false → ResetComes s ∨ AcceptsTone s t)
end

