-- ==== Sys2Proof/Laws/Decode.lean ====
section
/-! SUPPORT. What the fields of a word are: as numbers, and of a packed word. -/

namespace Sys2Proof

theorem opField_toNat (w : Word) : (opField w).toNat = w.toNat / 2 ^ 28 := by
  have := w.isLt
  simp [opField, Nat.shiftRight_eq_div_pow]
  omega

theorem rsvField_toNat (w : Word) : (rsvField w).toNat = w.toNat / 2 ^ 24 % 2 ^ 4 := by
  simp [rsvField, Nat.shiftRight_eq_div_pow]

theorem chField_toNat (w : Word) : (chField w).toNat = w.toNat / 2 ^ 16 % 2 ^ 8 := by
  simp [chField, Nat.shiftRight_eq_div_pow]

theorem valField_toNat (w : Word) : (valField w).toNat = w.toNat % 2 ^ 16 := by
  simp [valField]

theorem packFields_toNat (op : BitVec 4) (ch : BitVec 8) (val : BitVec 16) :
    (packFields op ch val).toNat = op.toNat * 2 ^ 28 + ch.toNat * 2 ^ 16 + val.toNat := by
  have h1 := op.isLt
  have h2 := ch.isLt
  have h3 := val.isLt
  simp only [packFields, BitVec.toNat_append, BitVec.toNat_ofNat, Nat.zero_mod, Nat.or_zero]
  rw [← Nat.shiftLeft_add_eq_or_of_lt h3, ← Nat.shiftLeft_add_eq_or_of_lt h2]
  simp only [Nat.shiftLeft_eq]
  omega

theorem opField_packFields (op : BitVec 4) (ch : BitVec 8) (val : BitVec 16) :
    opField (packFields op ch val) = op := by
  have h2 := ch.isLt
  have h3 := val.isLt
  apply BitVec.eq_of_toNat_eq
  rw [opField_toNat, packFields_toNat]
  omega

theorem rsvField_packFields (op : BitVec 4) (ch : BitVec 8) (val : BitVec 16) :
    rsvField (packFields op ch val) = 0#4 := by
  have h2 := ch.isLt
  have h3 := val.isLt
  apply BitVec.eq_of_toNat_eq
  rw [rsvField_toNat, packFields_toNat]
  simp only [BitVec.toNat_ofNat]
  omega

theorem chField_packFields (op : BitVec 4) (ch : BitVec 8) (val : BitVec 16) :
    chField (packFields op ch val) = ch := by
  have h2 := ch.isLt
  have h3 := val.isLt
  apply BitVec.eq_of_toNat_eq
  rw [chField_toNat, packFields_toNat]
  omega

theorem valField_packFields (op : BitVec 4) (ch : BitVec 8) (val : BitVec 16) :
    valField (packFields op ch val) = val := by
  have h2 := ch.isLt
  have h3 := val.isLt
  apply BitVec.eq_of_toNat_eq
  rw [valField_toNat, packFields_toNat]
  omega

end Sys2Proof
end

