-- ==== Sys2Proof/Laws/State.lean ====
section
/-! SUPPORT. One lemma per field per update of State, each true by rfl. -/

namespace Sys2Proof.Machine

@[simp] theorem emit_params (e : Event) (s : State) : (emit e s).params = s.params := rfl
@[simp] theorem emit_arg (e : Event) (s : State) : (emit e s).arg = s.arg := rfl
@[simp] theorem emit_ovr (e : Event) (s : State) : (emit e s).ovr = s.ovr := rfl
@[simp] theorem emit_code (e : Event) (s : State) : (emit e s).code = s.code := rfl
@[simp] theorem emit_result (e : Event) (s : State) : (emit e s).result = s.result := rfl
@[simp] theorem emit_loops (e : Event) (s : State) : (emit e s).loops = s.loops := rfl
@[simp] theorem emit_errval (e : Event) (s : State) : (emit e s).errval = s.errval := rfl
@[simp] theorem emit_cfg (e : Event) (s : State) : (emit e s).cfg = s.cfg := rfl
@[simp] theorem emit_seq (e : Event) (s : State) : (emit e s).seq = s.seq := rfl
@[simp] theorem emit_pwmClaim (e : Event) (s : State) : (emit e s).pwmClaim = s.pwmClaim := rfl
@[simp] theorem emit_pwmPeriod (e : Event) (s : State) : (emit e s).pwmPeriod = s.pwmPeriod := rfl
@[simp] theorem emit_pwmLoops (e : Event) (s : State) : (emit e s).pwmLoops = s.pwmLoops := rfl
@[simp] theorem emit_pwmRun (e : Event) (s : State) : (emit e s).pwmRun = s.pwmRun := rfl
@[simp] theorem emit_pwmDone (e : Event) (s : State) : (emit e s).pwmDone = s.pwmDone := rfl
@[simp] theorem emit_history (e : Event) (s : State) : (emit e s).history = s.history ++ [e] := rfl
@[simp] theorem emit_fault (e : Event) (s : State) : (emit e s).fault = s.fault := rfl
@[simp] theorem emit_resp (e : Event) (s : State) : (emit e s).resp = s.resp := rfl
@[simp] theorem emit_prog (e : Event) (s : State) : (emit e s).prog = s.prog := rfl
@[simp] theorem emit_turns (e : Event) (s : State) : (emit e s).turns = s.turns := rfl
@[simp] theorem emit_draws (e : Event) (s : State) : (emit e s).draws = s.draws := rfl

@[simp] theorem raiseFault_params (r : Fault) (s : State) : (raiseFault r s).params = s.params := rfl
@[simp] theorem raiseFault_arg (r : Fault) (s : State) : (raiseFault r s).arg = s.arg := rfl
@[simp] theorem raiseFault_ovr (r : Fault) (s : State) : (raiseFault r s).ovr = s.ovr := rfl
@[simp] theorem raiseFault_code (r : Fault) (s : State) : (raiseFault r s).code = s.code := rfl
@[simp] theorem raiseFault_result (r : Fault) (s : State) : (raiseFault r s).result = s.result := rfl
@[simp] theorem raiseFault_loops (r : Fault) (s : State) : (raiseFault r s).loops = s.loops := rfl
@[simp] theorem raiseFault_errval (r : Fault) (s : State) : (raiseFault r s).errval = s.errval := rfl
@[simp] theorem raiseFault_cfg (r : Fault) (s : State) : (raiseFault r s).cfg = s.cfg := rfl
@[simp] theorem raiseFault_seq (r : Fault) (s : State) : (raiseFault r s).seq = s.seq := rfl
@[simp] theorem raiseFault_pwmClaim (r : Fault) (s : State) : (raiseFault r s).pwmClaim = s.pwmClaim := rfl
@[simp] theorem raiseFault_pwmPeriod (r : Fault) (s : State) : (raiseFault r s).pwmPeriod = s.pwmPeriod := rfl
@[simp] theorem raiseFault_pwmLoops (r : Fault) (s : State) : (raiseFault r s).pwmLoops = s.pwmLoops := rfl
@[simp] theorem raiseFault_pwmRun (r : Fault) (s : State) : (raiseFault r s).pwmRun = s.pwmRun := rfl
@[simp] theorem raiseFault_pwmDone (r : Fault) (s : State) : (raiseFault r s).pwmDone = s.pwmDone := rfl
@[simp] theorem raiseFault_history (r : Fault) (s : State) : (raiseFault r s).history = s.history := rfl
@[simp] theorem raiseFault_fault (r : Fault) (s : State) : (raiseFault r s).fault = some r := rfl
@[simp] theorem raiseFault_resp (r : Fault) (s : State) : (raiseFault r s).resp = s.resp := rfl
@[simp] theorem raiseFault_prog (r : Fault) (s : State) : (raiseFault r s).prog = s.prog := rfl
@[simp] theorem raiseFault_turns (r : Fault) (s : State) : (raiseFault r s).turns = s.turns := rfl
@[simp] theorem raiseFault_draws (r : Fault) (s : State) : (raiseFault r s).draws = s.draws := rfl

@[simp] theorem setCode_params (c : Code) (s : State) : (setCode c s).params = s.params := rfl
@[simp] theorem setCode_arg (c : Code) (s : State) : (setCode c s).arg = s.arg := rfl
@[simp] theorem setCode_ovr (c : Code) (s : State) : (setCode c s).ovr = s.ovr := rfl
@[simp] theorem setCode_code (c : Code) (s : State) : (setCode c s).code = c := rfl
@[simp] theorem setCode_result (c : Code) (s : State) : (setCode c s).result = s.result := rfl
@[simp] theorem setCode_loops (c : Code) (s : State) : (setCode c s).loops = s.loops := rfl
@[simp] theorem setCode_errval (c : Code) (s : State) : (setCode c s).errval = s.errval := rfl
@[simp] theorem setCode_cfg (c : Code) (s : State) : (setCode c s).cfg = s.cfg := rfl
@[simp] theorem setCode_seq (c : Code) (s : State) : (setCode c s).seq = s.seq := rfl
@[simp] theorem setCode_pwmClaim (c : Code) (s : State) : (setCode c s).pwmClaim = s.pwmClaim := rfl
@[simp] theorem setCode_pwmPeriod (c : Code) (s : State) : (setCode c s).pwmPeriod = s.pwmPeriod := rfl
@[simp] theorem setCode_pwmLoops (c : Code) (s : State) : (setCode c s).pwmLoops = s.pwmLoops := rfl
@[simp] theorem setCode_pwmRun (c : Code) (s : State) : (setCode c s).pwmRun = s.pwmRun := rfl
@[simp] theorem setCode_pwmDone (c : Code) (s : State) : (setCode c s).pwmDone = s.pwmDone := rfl
@[simp] theorem setCode_history (c : Code) (s : State) : (setCode c s).history = s.history := rfl
@[simp] theorem setCode_fault (c : Code) (s : State) : (setCode c s).fault = s.fault := rfl
@[simp] theorem setCode_resp (c : Code) (s : State) : (setCode c s).resp = s.resp := rfl
@[simp] theorem setCode_prog (c : Code) (s : State) : (setCode c s).prog = s.prog := rfl
@[simp] theorem setCode_turns (c : Code) (s : State) : (setCode c s).turns = s.turns := rfl
@[simp] theorem setCode_draws (c : Code) (s : State) : (setCode c s).draws = s.draws := rfl

@[simp] theorem writeSlot_params (i : Slot) (val : BitVec 16) (s : State) : (writeSlot i val s).params = s.params := rfl
@[simp] theorem writeSlot_arg (i : Slot) (val : BitVec 16) (s : State) : (writeSlot i val s).arg = s.arg := rfl
@[simp] theorem writeSlot_ovr (i : Slot) (val : BitVec 16) (s : State) : (writeSlot i val s).ovr = s.ovr := rfl
@[simp] theorem writeSlot_code (i : Slot) (val : BitVec 16) (s : State) : (writeSlot i val s).code = s.code := rfl
@[simp] theorem writeSlot_result (i : Slot) (val : BitVec 16) (s : State) : (writeSlot i val s).result = s.result := rfl
@[simp] theorem writeSlot_loops (i : Slot) (val : BitVec 16) (s : State) : (writeSlot i val s).loops = s.loops := rfl
@[simp] theorem writeSlot_errval (i : Slot) (val : BitVec 16) (s : State) : (writeSlot i val s).errval = s.errval := rfl
@[simp] theorem writeSlot_cfg (i : Slot) (val : BitVec 16) (s : State) : (writeSlot i val s).cfg = s.cfg.set i.val (some (val.setWidth 9)) i.isLt := rfl
@[simp] theorem writeSlot_seq (i : Slot) (val : BitVec 16) (s : State) : (writeSlot i val s).seq = s.seq := rfl
@[simp] theorem writeSlot_pwmClaim (i : Slot) (val : BitVec 16) (s : State) : (writeSlot i val s).pwmClaim = s.pwmClaim := rfl
@[simp] theorem writeSlot_pwmPeriod (i : Slot) (val : BitVec 16) (s : State) : (writeSlot i val s).pwmPeriod = s.pwmPeriod := rfl
@[simp] theorem writeSlot_pwmLoops (i : Slot) (val : BitVec 16) (s : State) : (writeSlot i val s).pwmLoops = s.pwmLoops := rfl
@[simp] theorem writeSlot_pwmRun (i : Slot) (val : BitVec 16) (s : State) : (writeSlot i val s).pwmRun = s.pwmRun := rfl
@[simp] theorem writeSlot_pwmDone (i : Slot) (val : BitVec 16) (s : State) : (writeSlot i val s).pwmDone = s.pwmDone := rfl
@[simp] theorem writeSlot_history (i : Slot) (val : BitVec 16) (s : State) : (writeSlot i val s).history = s.history := rfl
@[simp] theorem writeSlot_fault (i : Slot) (val : BitVec 16) (s : State) : (writeSlot i val s).fault = s.fault := rfl
@[simp] theorem writeSlot_resp (i : Slot) (val : BitVec 16) (s : State) : (writeSlot i val s).resp = s.resp := rfl
@[simp] theorem writeSlot_prog (i : Slot) (val : BitVec 16) (s : State) : (writeSlot i val s).prog = s.prog := rfl
@[simp] theorem writeSlot_turns (i : Slot) (val : BitVec 16) (s : State) : (writeSlot i val s).turns = s.turns := rfl
@[simp] theorem writeSlot_draws (i : Slot) (val : BitVec 16) (s : State) : (writeSlot i val s).draws = s.draws := rfl

@[simp] theorem claimChannel_params (s : State) : (claimChannel s).params = s.params := rfl
@[simp] theorem claimChannel_arg (s : State) : (claimChannel s).arg = s.arg := rfl
@[simp] theorem claimChannel_ovr (s : State) : (claimChannel s).ovr = s.ovr := rfl
@[simp] theorem claimChannel_code (s : State) : (claimChannel s).code = s.code := rfl
@[simp] theorem claimChannel_result (s : State) : (claimChannel s).result = s.result := rfl
@[simp] theorem claimChannel_loops (s : State) : (claimChannel s).loops = s.loops := rfl
@[simp] theorem claimChannel_errval (s : State) : (claimChannel s).errval = s.errval := rfl
@[simp] theorem claimChannel_cfg (s : State) : (claimChannel s).cfg = s.cfg := rfl
@[simp] theorem claimChannel_seq (s : State) : (claimChannel s).seq = s.seq := rfl
@[simp] theorem claimChannel_pwmClaim (s : State) : (claimChannel s).pwmClaim = true := rfl
@[simp] theorem claimChannel_pwmPeriod (s : State) : (claimChannel s).pwmPeriod = s.pwmPeriod := rfl
@[simp] theorem claimChannel_pwmLoops (s : State) : (claimChannel s).pwmLoops = s.pwmLoops := rfl
@[simp] theorem claimChannel_pwmRun (s : State) : (claimChannel s).pwmRun = s.pwmRun := rfl
@[simp] theorem claimChannel_pwmDone (s : State) : (claimChannel s).pwmDone = s.pwmDone := rfl
@[simp] theorem claimChannel_history (s : State) : (claimChannel s).history = s.history ++ [.pwmClaim] := rfl
@[simp] theorem claimChannel_fault (s : State) : (claimChannel s).fault = s.fault := rfl
@[simp] theorem claimChannel_resp (s : State) : (claimChannel s).resp = s.resp := rfl
@[simp] theorem claimChannel_prog (s : State) : (claimChannel s).prog = s.prog := rfl
@[simp] theorem claimChannel_turns (s : State) : (claimChannel s).turns = s.turns := rfl
@[simp] theorem claimChannel_draws (s : State) : (claimChannel s).draws = s.draws := rfl

@[simp] theorem configureCapability_params (t l : Word) (s : State) : (configureCapability t l s).params = s.params := rfl
@[simp] theorem configureCapability_arg (t l : Word) (s : State) : (configureCapability t l s).arg = s.arg := rfl
@[simp] theorem configureCapability_ovr (t l : Word) (s : State) : (configureCapability t l s).ovr = s.ovr := rfl
@[simp] theorem configureCapability_code (t l : Word) (s : State) : (configureCapability t l s).code = s.code := rfl
@[simp] theorem configureCapability_result (t l : Word) (s : State) : (configureCapability t l s).result = s.result := rfl
@[simp] theorem configureCapability_loops (t l : Word) (s : State) : (configureCapability t l s).loops = s.loops := rfl
@[simp] theorem configureCapability_errval (t l : Word) (s : State) : (configureCapability t l s).errval = s.errval := rfl
@[simp] theorem configureCapability_cfg (t l : Word) (s : State) : (configureCapability t l s).cfg = s.cfg := rfl
@[simp] theorem configureCapability_seq (t l : Word) (s : State) : (configureCapability t l s).seq = s.seq := rfl
@[simp] theorem configureCapability_pwmClaim (t l : Word) (s : State) : (configureCapability t l s).pwmClaim = s.pwmClaim := rfl
@[simp] theorem configureCapability_pwmPeriod (t l : Word) (s : State) : (configureCapability t l s).pwmPeriod = t := rfl
@[simp] theorem configureCapability_pwmLoops (t l : Word) (s : State) : (configureCapability t l s).pwmLoops = l := rfl
@[simp] theorem configureCapability_pwmRun (t l : Word) (s : State) : (configureCapability t l s).pwmRun = s.pwmRun := rfl
@[simp] theorem configureCapability_pwmDone (t l : Word) (s : State) : (configureCapability t l s).pwmDone = s.pwmDone := rfl
@[simp] theorem configureCapability_history (t l : Word) (s : State) : (configureCapability t l s).history = s.history := rfl
@[simp] theorem configureCapability_fault (t l : Word) (s : State) : (configureCapability t l s).fault = s.fault := rfl
@[simp] theorem configureCapability_resp (t l : Word) (s : State) : (configureCapability t l s).resp = s.resp := rfl
@[simp] theorem configureCapability_prog (t l : Word) (s : State) : (configureCapability t l s).prog = s.prog := rfl
@[simp] theorem configureCapability_turns (t l : Word) (s : State) : (configureCapability t l s).turns = s.turns := rfl
@[simp] theorem configureCapability_draws (t l : Word) (s : State) : (configureCapability t l s).draws = s.draws := rfl

@[simp] theorem clearDone_params (s : State) : (clearDone s).params = s.params := rfl
@[simp] theorem clearDone_arg (s : State) : (clearDone s).arg = s.arg := rfl
@[simp] theorem clearDone_ovr (s : State) : (clearDone s).ovr = s.ovr := rfl
@[simp] theorem clearDone_code (s : State) : (clearDone s).code = s.code := rfl
@[simp] theorem clearDone_result (s : State) : (clearDone s).result = s.result := rfl
@[simp] theorem clearDone_loops (s : State) : (clearDone s).loops = s.loops := rfl
@[simp] theorem clearDone_errval (s : State) : (clearDone s).errval = s.errval := rfl
@[simp] theorem clearDone_cfg (s : State) : (clearDone s).cfg = s.cfg := rfl
@[simp] theorem clearDone_seq (s : State) : (clearDone s).seq = s.seq := rfl
@[simp] theorem clearDone_pwmClaim (s : State) : (clearDone s).pwmClaim = s.pwmClaim := rfl
@[simp] theorem clearDone_pwmPeriod (s : State) : (clearDone s).pwmPeriod = s.pwmPeriod := rfl
@[simp] theorem clearDone_pwmLoops (s : State) : (clearDone s).pwmLoops = s.pwmLoops := rfl
@[simp] theorem clearDone_pwmRun (s : State) : (clearDone s).pwmRun = s.pwmRun := rfl
@[simp] theorem clearDone_pwmDone (s : State) : (clearDone s).pwmDone = false := rfl
@[simp] theorem clearDone_history (s : State) : (clearDone s).history = s.history := rfl
@[simp] theorem clearDone_fault (s : State) : (clearDone s).fault = s.fault := rfl
@[simp] theorem clearDone_resp (s : State) : (clearDone s).resp = s.resp := rfl
@[simp] theorem clearDone_prog (s : State) : (clearDone s).prog = s.prog := rfl
@[simp] theorem clearDone_turns (s : State) : (clearDone s).turns = s.turns := rfl
@[simp] theorem clearDone_draws (s : State) : (clearDone s).draws = s.draws := rfl

@[simp] theorem startCapability_params (t l : Word) (s : State) : (startCapability t l s).params = s.params := rfl
@[simp] theorem startCapability_arg (t l : Word) (s : State) : (startCapability t l s).arg = s.arg := rfl
@[simp] theorem startCapability_ovr (t l : Word) (s : State) : (startCapability t l s).ovr = s.ovr := rfl
@[simp] theorem startCapability_code (t l : Word) (s : State) : (startCapability t l s).code = s.code := rfl
@[simp] theorem startCapability_result (t l : Word) (s : State) : (startCapability t l s).result = s.result := rfl
@[simp] theorem startCapability_loops (t l : Word) (s : State) : (startCapability t l s).loops = s.loops := rfl
@[simp] theorem startCapability_errval (t l : Word) (s : State) : (startCapability t l s).errval = s.errval := rfl
@[simp] theorem startCapability_cfg (t l : Word) (s : State) : (startCapability t l s).cfg = s.cfg := rfl
@[simp] theorem startCapability_seq (t l : Word) (s : State) : (startCapability t l s).seq = s.seq := rfl
@[simp] theorem startCapability_pwmClaim (t l : Word) (s : State) : (startCapability t l s).pwmClaim = s.pwmClaim := rfl
@[simp] theorem startCapability_pwmPeriod (t l : Word) (s : State) : (startCapability t l s).pwmPeriod = s.pwmPeriod := rfl
@[simp] theorem startCapability_pwmLoops (t l : Word) (s : State) : (startCapability t l s).pwmLoops = s.pwmLoops := rfl
@[simp] theorem startCapability_pwmRun (t l : Word) (s : State) : (startCapability t l s).pwmRun = true := rfl
@[simp] theorem startCapability_pwmDone (t l : Word) (s : State) : (startCapability t l s).pwmDone = s.pwmDone := rfl
@[simp] theorem startCapability_history (t l : Word) (s : State) : (startCapability t l s).history = s.history ++ [.pwmStart t l] := rfl
@[simp] theorem startCapability_fault (t l : Word) (s : State) : (startCapability t l s).fault = s.fault := rfl
@[simp] theorem startCapability_resp (t l : Word) (s : State) : (startCapability t l s).resp = s.resp := rfl
@[simp] theorem startCapability_prog (t l : Word) (s : State) : (startCapability t l s).prog = s.prog := rfl
@[simp] theorem startCapability_turns (t l : Word) (s : State) : (startCapability t l s).turns = s.turns := rfl
@[simp] theorem startCapability_draws (t l : Word) (s : State) : (startCapability t l s).draws = s.draws := rfl

@[simp] theorem acceptTone_params (t l : Word) (s : State) : (acceptTone t l s).params = s.params := rfl
@[simp] theorem acceptTone_arg (t l : Word) (s : State) : (acceptTone t l s).arg = s.arg := rfl
@[simp] theorem acceptTone_ovr (t l : Word) (s : State) : (acceptTone t l s).ovr = s.ovr := rfl
@[simp] theorem acceptTone_code (t l : Word) (s : State) : (acceptTone t l s).code = s.code := rfl
@[simp] theorem acceptTone_result (t l : Word) (s : State) : (acceptTone t l s).result = s.result := rfl
@[simp] theorem acceptTone_loops (t l : Word) (s : State) : (acceptTone t l s).loops = s.loops := rfl
@[simp] theorem acceptTone_errval (t l : Word) (s : State) : (acceptTone t l s).errval = s.errval := rfl
@[simp] theorem acceptTone_cfg (t l : Word) (s : State) : (acceptTone t l s).cfg = s.cfg := rfl
@[simp] theorem acceptTone_seq (t l : Word) (s : State) : (acceptTone t l s).seq = .playing := rfl
@[simp] theorem acceptTone_pwmClaim (t l : Word) (s : State) : (acceptTone t l s).pwmClaim = true := rfl
@[simp] theorem acceptTone_pwmPeriod (t l : Word) (s : State) : (acceptTone t l s).pwmPeriod = t := rfl
@[simp] theorem acceptTone_pwmLoops (t l : Word) (s : State) : (acceptTone t l s).pwmLoops = l := rfl
@[simp] theorem acceptTone_pwmRun (t l : Word) (s : State) : (acceptTone t l s).pwmRun = true := rfl
@[simp] theorem acceptTone_pwmDone (t l : Word) (s : State) : (acceptTone t l s).pwmDone = false := rfl
@[simp] theorem acceptTone_history (t l : Word) (s : State) : (acceptTone t l s).history = s.history ++ [.pwmClaim] ++ [.pwmStart t l] := rfl
@[simp] theorem acceptTone_fault (t l : Word) (s : State) : (acceptTone t l s).fault = s.fault := rfl
@[simp] theorem acceptTone_resp (t l : Word) (s : State) : (acceptTone t l s).resp = s.resp := rfl
@[simp] theorem acceptTone_prog (t l : Word) (s : State) : (acceptTone t l s).prog = s.prog := rfl
@[simp] theorem acceptTone_turns (t l : Word) (s : State) : (acceptTone t l s).turns = s.turns := rfl
@[simp] theorem acceptTone_draws (t l : Word) (s : State) : (acceptTone t l s).draws = s.draws := rfl

@[simp] theorem playTone_params (t l : Word) (s : State) : (playTone t l s).params = s.params := rfl
@[simp] theorem playTone_arg (t l : Word) (s : State) : (playTone t l s).arg = s.arg := rfl
@[simp] theorem playTone_ovr (t l : Word) (s : State) : (playTone t l s).ovr = s.ovr := rfl
@[simp] theorem playTone_code (t l : Word) (s : State) : (playTone t l s).code = .ok := rfl
@[simp] theorem playTone_result (t l : Word) (s : State) : (playTone t l s).result = t := rfl
@[simp] theorem playTone_loops (t l : Word) (s : State) : (playTone t l s).loops = l := rfl
@[simp] theorem playTone_errval (t l : Word) (s : State) : (playTone t l s).errval = s.errval := rfl
@[simp] theorem playTone_cfg (t l : Word) (s : State) : (playTone t l s).cfg = s.cfg := rfl
@[simp] theorem playTone_seq (t l : Word) (s : State) : (playTone t l s).seq = .playing := rfl
@[simp] theorem playTone_pwmClaim (t l : Word) (s : State) : (playTone t l s).pwmClaim = true := rfl
@[simp] theorem playTone_pwmPeriod (t l : Word) (s : State) : (playTone t l s).pwmPeriod = t := rfl
@[simp] theorem playTone_pwmLoops (t l : Word) (s : State) : (playTone t l s).pwmLoops = l := rfl
@[simp] theorem playTone_pwmRun (t l : Word) (s : State) : (playTone t l s).pwmRun = true := rfl
@[simp] theorem playTone_pwmDone (t l : Word) (s : State) : (playTone t l s).pwmDone = false := rfl
@[simp] theorem playTone_history (t l : Word) (s : State) : (playTone t l s).history = s.history ++ [.pwmClaim] ++ [.pwmStart t l] := rfl
@[simp] theorem playTone_fault (t l : Word) (s : State) : (playTone t l s).fault = s.fault := rfl
@[simp] theorem playTone_resp (t l : Word) (s : State) : (playTone t l s).resp = s.resp := rfl
@[simp] theorem playTone_prog (t l : Word) (s : State) : (playTone t l s).prog = s.prog := rfl
@[simp] theorem playTone_turns (t l : Word) (s : State) : (playTone t l s).turns = s.turns := rfl
@[simp] theorem playTone_draws (t l : Word) (s : State) : (playTone t l s).draws = s.draws := rfl

@[simp] theorem overrunCmd_params (w : Word) (s : State) : (overrunCmd w s).params = s.params := rfl
@[simp] theorem overrunCmd_arg (w : Word) (s : State) : (overrunCmd w s).arg = s.arg := rfl
@[simp] theorem overrunCmd_ovr (w : Word) (s : State) : (overrunCmd w s).ovr = true := rfl
@[simp] theorem overrunCmd_code (w : Word) (s : State) : (overrunCmd w s).code = s.code := rfl
@[simp] theorem overrunCmd_result (w : Word) (s : State) : (overrunCmd w s).result = s.result := rfl
@[simp] theorem overrunCmd_loops (w : Word) (s : State) : (overrunCmd w s).loops = s.loops := rfl
@[simp] theorem overrunCmd_errval (w : Word) (s : State) : (overrunCmd w s).errval = s.errval := rfl
@[simp] theorem overrunCmd_cfg (w : Word) (s : State) : (overrunCmd w s).cfg = s.cfg := rfl
@[simp] theorem overrunCmd_seq (w : Word) (s : State) : (overrunCmd w s).seq = s.seq := rfl
@[simp] theorem overrunCmd_pwmClaim (w : Word) (s : State) : (overrunCmd w s).pwmClaim = s.pwmClaim := rfl
@[simp] theorem overrunCmd_pwmPeriod (w : Word) (s : State) : (overrunCmd w s).pwmPeriod = s.pwmPeriod := rfl
@[simp] theorem overrunCmd_pwmLoops (w : Word) (s : State) : (overrunCmd w s).pwmLoops = s.pwmLoops := rfl
@[simp] theorem overrunCmd_pwmRun (w : Word) (s : State) : (overrunCmd w s).pwmRun = s.pwmRun := rfl
@[simp] theorem overrunCmd_pwmDone (w : Word) (s : State) : (overrunCmd w s).pwmDone = s.pwmDone := rfl
@[simp] theorem overrunCmd_history (w : Word) (s : State) : (overrunCmd w s).history = s.history := rfl
@[simp] theorem overrunCmd_fault (w : Word) (s : State) : (overrunCmd w s).fault = some (.overrun w) := rfl
@[simp] theorem overrunCmd_resp (w : Word) (s : State) : (overrunCmd w s).resp = s.resp := rfl
@[simp] theorem overrunCmd_prog (w : Word) (s : State) : (overrunCmd w s).prog = s.prog := rfl
@[simp] theorem overrunCmd_turns (w : Word) (s : State) : (overrunCmd w s).turns = s.turns := rfl
@[simp] theorem overrunCmd_draws (w : Word) (s : State) : (overrunCmd w s).draws = s.draws := rfl

@[simp] theorem writeStatus_params (w : Word) (s : State) : (writeStatus w s).params = s.params := rfl
@[simp] theorem writeStatus_arg (w : Word) (s : State) : (writeStatus w s).arg = s.arg := rfl
@[simp] theorem writeStatus_ovr (w : Word) (s : State) : (writeStatus w s).ovr = (s.ovr && !w.getLsbD 1) := rfl
@[simp] theorem writeStatus_code (w : Word) (s : State) : (writeStatus w s).code = s.code := rfl
@[simp] theorem writeStatus_result (w : Word) (s : State) : (writeStatus w s).result = s.result := rfl
@[simp] theorem writeStatus_loops (w : Word) (s : State) : (writeStatus w s).loops = s.loops := rfl
@[simp] theorem writeStatus_errval (w : Word) (s : State) : (writeStatus w s).errval = s.errval := rfl
@[simp] theorem writeStatus_cfg (w : Word) (s : State) : (writeStatus w s).cfg = s.cfg := rfl
@[simp] theorem writeStatus_seq (w : Word) (s : State) : (writeStatus w s).seq = s.seq := rfl
@[simp] theorem writeStatus_pwmClaim (w : Word) (s : State) : (writeStatus w s).pwmClaim = s.pwmClaim := rfl
@[simp] theorem writeStatus_pwmPeriod (w : Word) (s : State) : (writeStatus w s).pwmPeriod = s.pwmPeriod := rfl
@[simp] theorem writeStatus_pwmLoops (w : Word) (s : State) : (writeStatus w s).pwmLoops = s.pwmLoops := rfl
@[simp] theorem writeStatus_pwmRun (w : Word) (s : State) : (writeStatus w s).pwmRun = s.pwmRun := rfl
@[simp] theorem writeStatus_pwmDone (w : Word) (s : State) : (writeStatus w s).pwmDone = s.pwmDone := rfl
@[simp] theorem writeStatus_history (w : Word) (s : State) : (writeStatus w s).history = s.history := rfl
@[simp] theorem writeStatus_fault (w : Word) (s : State) : (writeStatus w s).fault = s.fault := rfl
@[simp] theorem writeStatus_resp (w : Word) (s : State) : (writeStatus w s).resp = s.resp := rfl
@[simp] theorem writeStatus_prog (w : Word) (s : State) : (writeStatus w s).prog = s.prog := rfl
@[simp] theorem writeStatus_turns (w : Word) (s : State) : (writeStatus w s).turns = s.turns := rfl
@[simp] theorem writeStatus_draws (w : Word) (s : State) : (writeStatus w s).draws = s.draws := rfl

@[simp] theorem badAccess_params (off : Offset) (size : Nat) (s : State) : (badAccess off size s).params = s.params := rfl
@[simp] theorem badAccess_arg (off : Offset) (size : Nat) (s : State) : (badAccess off size s).arg = s.arg := rfl
@[simp] theorem badAccess_ovr (off : Offset) (size : Nat) (s : State) : (badAccess off size s).ovr = s.ovr := rfl
@[simp] theorem badAccess_code (off : Offset) (size : Nat) (s : State) : (badAccess off size s).code = s.code := rfl
@[simp] theorem badAccess_result (off : Offset) (size : Nat) (s : State) : (badAccess off size s).result = s.result := rfl
@[simp] theorem badAccess_loops (off : Offset) (size : Nat) (s : State) : (badAccess off size s).loops = s.loops := rfl
@[simp] theorem badAccess_errval (off : Offset) (size : Nat) (s : State) : (badAccess off size s).errval = s.errval := rfl
@[simp] theorem badAccess_cfg (off : Offset) (size : Nat) (s : State) : (badAccess off size s).cfg = s.cfg := rfl
@[simp] theorem badAccess_seq (off : Offset) (size : Nat) (s : State) : (badAccess off size s).seq = s.seq := rfl
@[simp] theorem badAccess_pwmClaim (off : Offset) (size : Nat) (s : State) : (badAccess off size s).pwmClaim = s.pwmClaim := rfl
@[simp] theorem badAccess_pwmPeriod (off : Offset) (size : Nat) (s : State) : (badAccess off size s).pwmPeriod = s.pwmPeriod := rfl
@[simp] theorem badAccess_pwmLoops (off : Offset) (size : Nat) (s : State) : (badAccess off size s).pwmLoops = s.pwmLoops := rfl
@[simp] theorem badAccess_pwmRun (off : Offset) (size : Nat) (s : State) : (badAccess off size s).pwmRun = s.pwmRun := rfl
@[simp] theorem badAccess_pwmDone (off : Offset) (size : Nat) (s : State) : (badAccess off size s).pwmDone = s.pwmDone := rfl
@[simp] theorem badAccess_history (off : Offset) (size : Nat) (s : State) : (badAccess off size s).history = s.history := rfl
@[simp] theorem badAccess_fault (off : Offset) (size : Nat) (s : State) : (badAccess off size s).fault = some (.badAccess off size) := rfl
@[simp] theorem badAccess_resp (off : Offset) (size : Nat) (s : State) : (badAccess off size s).resp = some .error := rfl
@[simp] theorem badAccess_prog (off : Offset) (size : Nat) (s : State) : (badAccess off size s).prog = s.prog := rfl
@[simp] theorem badAccess_turns (off : Offset) (size : Nat) (s : State) : (badAccess off size s).turns = s.turns := rfl
@[simp] theorem badAccess_draws (off : Offset) (size : Nat) (s : State) : (badAccess off size s).draws = s.draws := rfl

@[simp] theorem applyReset_params (s : State) : (applyReset s).params = s.params := rfl
@[simp] theorem applyReset_arg (s : State) : (applyReset s).arg = 0#32 := rfl
@[simp] theorem applyReset_ovr (s : State) : (applyReset s).ovr = false := rfl
@[simp] theorem applyReset_code (s : State) : (applyReset s).code = .ok := rfl
@[simp] theorem applyReset_result (s : State) : (applyReset s).result = 0#32 := rfl
@[simp] theorem applyReset_loops (s : State) : (applyReset s).loops = 0#32 := rfl
@[simp] theorem applyReset_errval (s : State) : (applyReset s).errval = 0#32 := rfl
@[simp] theorem applyReset_cfg (s : State) : (applyReset s).cfg = Vector.replicate Config.nServo none := rfl
@[simp] theorem applyReset_seq (s : State) : (applyReset s).seq = .idle := rfl
@[simp] theorem applyReset_pwmClaim (s : State) : (applyReset s).pwmClaim = false := rfl
@[simp] theorem applyReset_pwmPeriod (s : State) : (applyReset s).pwmPeriod = 0#32 := rfl
@[simp] theorem applyReset_pwmLoops (s : State) : (applyReset s).pwmLoops = 0#32 := rfl
@[simp] theorem applyReset_pwmRun (s : State) : (applyReset s).pwmRun = false := rfl
@[simp] theorem applyReset_pwmDone (s : State) : (applyReset s).pwmDone = Config.pwmDoneAfterReset s.draws := rfl
@[simp] theorem applyReset_history (s : State) : (applyReset s).history = resetHistory s := rfl
@[simp] theorem applyReset_fault (s : State) : (applyReset s).fault = s.fault := rfl
@[simp] theorem applyReset_resp (s : State) : (applyReset s).resp = none := rfl
@[simp] theorem applyReset_prog (s : State) : (applyReset s).prog = s.prog := rfl
@[simp] theorem applyReset_turns (s : State) : (applyReset s).turns = s.turns := rfl
@[simp] theorem applyReset_draws (s : State) : (applyReset s).draws = s.draws + 1 := rfl

end Sys2Proof.Machine
end

