-- ==== Sys2Proof/Laws/Ops.lean ====
section
/-! SUPPORT. What each shared operation and each meaning can do, once: provers cite these instead of unfolding. -/

namespace Sys2Proof.Machine

variable {s t : State}

/-! ### Operands -/

theorem slotOf_eq_none {ch : BitVec 8} : slotOf ch = none ↔ ¬(1 ≤ ch.toNat ∧ ch.toNat ≤ 8) := by
  simp [slotOf]

theorem slotOf_eq_some {ch : BitVec 8} {i : Slot} : slotOf ch = some i ↔ ch.toNat = i.val + 1 := by
  have := i.isLt
  simp only [slotOf, Config.nServo] at *
  split
  · simp only [Option.some.injEq, Fin.ext_iff]; omega
  · simp; omega

/-! ### Division and search -/

@[simp] theorem floorDiv_of_pos {a b : Nat} (h : 0 < b) : floorDiv a b = a / b := by
  simp [floorDiv, Nat.ne_of_gt h]

/-- The search finds the least passing number of its range, for a monotone test that the range's last number passes. -/
theorem leastPassing_spec {test : Nat → Bool} (mono : ∀ m n, m ≤ n → test m = true → test n = true) :
    ∀ bits acc, test (acc + 2 ^ bits - 1) = true →
      acc ≤ leastPassing test bits acc ∧ leastPassing test bits acc < acc + 2 ^ bits ∧
      test (leastPassing test bits acc) = true ∧
      ∀ n, acc ≤ n → n < leastPassing test bits acc → test n = false := by
  intro bits
  induction bits with
  | zero => intro acc h; exact ⟨le_rfl, by simp [leastPassing], by simpa [leastPassing] using h, fun n h1 h2 => by
      simp only [leastPassing] at h2; omega⟩
  | succ b ih =>
    intro acc h
    have hp : 2 ^ (b + 1) = 2 ^ b + 2 ^ b := by rw [pow_succ]; omega
    have h1 : 1 ≤ 2 ^ b := Nat.one_le_two_pow
    by_cases hb : test (acc + 2 ^ b - 1) = true
    · simp only [leastPassing, hb, if_true]
      obtain ⟨ha, hl, ht, hn⟩ := ih acc hb
      exact ⟨ha, by omega, ht, hn⟩
    · simp only [leastPassing, hb]
      obtain ⟨ha, hl, ht, hn⟩ := ih (acc + 2 ^ b) (by rw [show acc + 2 ^ b + 2 ^ b - 1 = acc + 2 ^ (b + 1) - 1 by omega]; exact h)
      refine ⟨by simp; omega, by simp; omega, by simpa using ht, fun n h2 h3 => ?_⟩
      by_cases hn' : acc + 2 ^ b ≤ n
      · exact hn n hn' (by simpa using h3)
      · by_contra hc
        exact hb (mono n _ (by omega) (by simpa using hc))

/-- The test of 41_tone.md R121 with its numbers written out. -/
theorem periodTest_iff (f k n : Nat) :
    periodTest f k n = true ↔
      (2 * f) ^ 12 * 2 ^ (69 - k) < (440 * (2 * n + 1)) ^ 12 * 2 ^ (k - 69) := by
  rw [periodTest, decide_eq_true_iff]
  rfl

theorem periodTest_eq_false_iff (f k n : Nat) :
    periodTest f k n = false ↔
      (440 * (2 * n + 1)) ^ 12 * 2 ^ (k - 69) ≤ (2 * f) ^ 12 * 2 ^ (69 - k) := by
  rw [← Bool.not_eq_true, periodTest_iff, not_lt]

/-- A larger candidate passes the test where a smaller one does (41_tone.md R121). -/
theorem periodTest_mono (f k : Nat) : ∀ m n, m ≤ n → periodTest f k m = true → periodTest f k n = true := by
  intro m n h hm
  rw [periodTest_iff] at *
  refine lt_of_lt_of_le hm ?_
  gcongr

/-! ### The two ways a command ends -/

@[simp] theorem fail_eq (c : Code) (s : State) : fail c s = .next { s with code := c } := rfl
@[simp] theorem failWith_eq (c : Code) (v : Word) (s : State) :
    failWith c v s = .next { s with errval := v, code := c } := rfl
@[simp] theorem succeed_eq (s : State) : succeed s = .next { s with code := .ok } := rfl

/-! ### The meanings: what a next state of each can be -/

/-- Everything SCFG can do (40_servo.md R102). -/
theorem execScfg_cases {ch : BitVec 8} {val : BitVec 16} (h : execScfg ch val s = .next t) :
    (slotOf ch = none ∧ t = { s with errval := zext32 ch, code := .invalidIndex }) ∨
    ∃ i, slotOf ch = some i ∧
      ((359 < val.toNat ∧ t = { s with errval := zext32 val, code := .invalidAngle }) ∨
       (val.toNat = 0 ∧ t = { s with code := .zeroMax }) ∨
       (1 ≤ val.toNat ∧ val.toNat ≤ 359 ∧ (∃ m, s.cfg[i] = some m) ∧ t = { s with code := .repeatChannel }) ∨
       (1 ≤ val.toNat ∧ val.toNat ≤ 359 ∧ s.cfg[i] = none ∧
          t = { s with cfg := s.cfg.set i.val (some (val.setWidth 9)) i.isLt, code := .ok })) := by
  unfold execScfg at h
  split at h
  · next hi => exact .inl ⟨hi, by simpa using h.symm⟩
  · next i hi =>
    refine .inr ⟨i, hi, ?_⟩
    split at h
    · next hv => exact .inl ⟨by simpa [angleValid] using hv, by simpa using h.symm⟩
    · next hv =>
      have hv' : val.toNat ≤ 359 := by simpa [angleValid] using hv
      split at h
      · next hz => exact .inr (.inl ⟨hz, by simpa using h.symm⟩)
      · next hz =>
        split at h
        · next m hm => exact .inr (.inr (.inl ⟨by omega, hv', ⟨m, hm⟩, by simpa using h.symm⟩))
        · next hm => exact .inr (.inr (.inr ⟨by omega, hv', hm, by simpa [writeSlot] using h.symm⟩))

/-- Everything SSCL can do (40_servo.md R104). -/
theorem execSscl_cases {ch : BitVec 8} {val : BitVec 16} (h : execSscl ch val s = .next t) :
    (slotOf ch = none ∧ t = { s with errval := zext32 ch, code := .invalidIndex }) ∨
    ∃ i, slotOf ch = some i ∧
      ((359 < val.toNat ∧ t = { s with errval := zext32 val, code := .invalidAngle }) ∨
       (val.toNat ≤ 359 ∧ s.cfg[i] = none ∧ t = { s with code := .unconfigured }) ∨
       ∃ m, s.cfg[i] = some m ∧ val.toNat ≤ 359 ∧
        ((m.toNat < val.toNat ∧ t = { s with code := .overangle }) ∨
         (val.toNat ≤ m.toNat ∧ 180 < scaleAngle val.toNat m.toNat ∧
            t = { s with fault := some .scaleInvariant, code := .internal }) ∨
         (val.toNat ≤ m.toNat ∧ scaleAngle val.toNat m.toNat ≤ 180 ∧
            t = { s with
                  result := BitVec.ofNat 32 (scaleAngle val.toNat m.toNat)
                  history := s.history ++ [.servoOut i (BitVec.ofNat 8 (scaleAngle val.toNat m.toNat))]
                  code := .ok }))) := by
  unfold execSscl at h
  split at h
  · next hi => exact .inl ⟨hi, by simpa using h.symm⟩
  · next i hi =>
    refine .inr ⟨i, hi, ?_⟩
    split at h
    · next hv => exact .inl ⟨by simpa [angleValid] using hv, by simpa using h.symm⟩
    · next hv =>
      have hv' : val.toNat ≤ 359 := by simpa [angleValid] using hv
      split at h
      · next hm => exact .inr (.inl ⟨hv', hm, by simpa using h.symm⟩)
      · next m hm =>
        refine .inr (.inr ⟨m, hm, hv', ?_⟩)
        split at h
        · next ho => exact .inl ⟨ho, by simpa using h.symm⟩
        · next ho =>
          unfold deliverAngle at h
          split at h
          · next hr => exact .inr (.inl ⟨Nat.le_of_not_lt ho, hr, by simpa [raiseFault] using h.symm⟩)
          · next hr => exact .inr (.inr ⟨Nat.le_of_not_lt ho, Nat.le_of_not_lt hr, by simpa [emit] using h.symm⟩)

/-- Everything TPER can do (41_tone.md R122). -/
theorem execTper_cases {key : BitVec 16} (h : execTper key s = .next t) :
    (127 < key.toNat ∧ t = { s with errval := zext32 key, code := .invalidKey }) ∨
    (key.toNat ≤ 127 ∧
      t = { s with result := BitVec.ofNat 32 (ticks s.params.tickFreq.toNat key.toNat), code := .ok }) := by
  unfold execTper at h
  split at h
  · next hk => exact .inl ⟨by simpa [keyValid] using hk, by simpa using h.symm⟩
  · next hk => exact .inr ⟨by simpa [keyValid] using hk, by simpa using h.symm⟩

/-- Everything TLCNT can do (41_tone.md R126). -/
theorem execTlcnt_cases {key : BitVec 16} (h : execTlcnt key s = .next t) :
    (127 < key.toNat ∧ t = { s with errval := zext32 key, code := .invalidKey }) ∨
    (key.toNat ≤ 127 ∧ ∃ n, n = ticks s.params.tickFreq.toNat key.toNat ∧
      ((n = 0 ∧ t = { s with code := .periodRange }) ∨
       ∃ l, l = loopCount s.arg.toNat s.params.tickFreq.toNat n ∧ n ≠ 0 ∧
        ((2 ^ 32 ≤ l ∧ t = { s with code := .loopRange }) ∨
         (l < 2 ^ 32 ∧ t = { s with result := BitVec.ofNat 32 n, loops := BitVec.ofNat 32 l, code := .ok })))) := by
  unfold execTlcnt at h
  split at h
  · next hk => exact .inl ⟨by simpa [keyValid] using hk, by simpa using h.symm⟩
  · next hk =>
    refine .inr ⟨by simpa [keyValid] using hk, _, rfl, ?_⟩
    unfold finishTlcnt at h
    split at h
    · next h0 => exact .inl ⟨h0, by simpa using h.symm⟩
    · next h0 =>
      refine .inr ⟨_, rfl, h0, ?_⟩
      split at h
      · next hl => exact .inl ⟨by omega, by simpa using h.symm⟩
      · next hl => exact .inr ⟨by omega, by simpa using h.symm⟩

/-- Everything TPLAY can do (41_tone.md R130). -/
theorem execTplay_cases {key : BitVec 16} (h : execTplay key s = .next t) :
    (127 < key.toNat ∧ t = { s with errval := zext32 key, code := .invalidKey }) ∨
    (key.toNat ≤ 127 ∧ ∃ n, n = ticks s.params.tickFreq.toNat key.toNat ∧
      (((n = 0 ∨ s.params.pwmPeriodMax.toNat < n) ∧ t = { s with code := .periodRange }) ∨
       ∃ l, l = loopCount s.arg.toNat s.params.tickFreq.toNat n ∧ n ≠ 0 ∧ n ≤ s.params.pwmPeriodMax.toNat ∧
        (((l = 0 ∨ s.params.pwmLoopMax.toNat < l) ∧ t = { s with code := .loopRange }) ∨
         (l ≠ 0 ∧ l ≤ s.params.pwmLoopMax.toNat ∧ t = playTone (BitVec.ofNat 32 n) (BitVec.ofNat 32 l) s)))) := by
  unfold execTplay at h
  split at h
  · next hk => exact .inl ⟨by simpa [keyValid] using hk, by simpa using h.symm⟩
  · next hk =>
    refine .inr ⟨by simpa [keyValid] using hk, _, rfl, ?_⟩
    unfold finishTplay at h
    split at h
    · next h0 => exact .inl ⟨h0, by simpa using h.symm⟩
    · next h0 =>
      refine .inr ⟨_, rfl, by tauto, by omega, ?_⟩
      split at h
      · next hl => exact .inl ⟨hl, by simpa using h.symm⟩
      · next hl => exact .inr ⟨by tauto, by omega, by simpa using h.symm⟩

/-! ### Host accesses, agent steps and turns -/

/-- Everything an issued word can do (10_state.md R21, 30_encoding.md R74, R75). -/
theorem issueCmd_cases {w : Word} (h : issueCmd w s = .next t) :
    ((∃ why, decode w = .illegal why) ∧ t = { s with errval := w, code := .illegal }) ∨
    ∃ i, decode w = .cmd i ∧ exec i s = .next t := by
  unfold issueCmd at h
  split at h
  · next why hd => exact .inl ⟨⟨why, hd⟩, by simpa [execIllegal] using h.symm⟩
  · next i hd => exact .inr ⟨i, hd, h⟩

/-- Everything an admitted write can do (20_memory.md R54). -/
theorem writeWindow_cases {off : Offset} {w : Word} (h : writeWindow off w s = .next t) :
    (off.toNat / 4 = 0 ∧ s.seq = .playing ∧ t = overrunCmd w s) ∨
    (off.toNat / 4 = 0 ∧ s.seq = .idle ∧ issueCmd w s = .next t) ∨
    (off.toNat / 4 = 1 ∧ t = { s with arg := w }) ∨
    (off.toNat / 4 = 2 ∧ t = writeStatus w s) ∨
    (3 ≤ off.toNat / 4 ∧ t = s) := by
  unfold writeWindow at h
  split at h
  · next h0 =>
    unfold writeCmd at h
    split at h
    · next hs => exact .inl ⟨h0, hs, by simpa using h.symm⟩
    · next hs => exact .inr (.inl ⟨h0, hs, h⟩)
  · next h1 => exact .inr (.inr (.inl ⟨h1, by simpa using h.symm⟩))
  · next h2 => exact .inr (.inr (.inr (.inl ⟨h2, by simpa using h.symm⟩)))
  · next h0 h1 h2 => exact .inr (.inr (.inr (.inr ⟨by simp only [imp_false] at h0 h1 h2; omega, by simpa using h.symm⟩)))

/-- Everything the host's step can do (20_memory.md R52 to R54, 30_encoding.md R82). -/
theorem hostStep_cases (h : hostStep s = .next t) :
    (s.prog = [] ∧ t = s) ∨
    (∃ off size rest, s.prog = .read off size :: rest ∧ t = hostRead off size { s with prog := rest }) ∨
    (∃ off size w rest, s.prog = .write off size w :: rest ∧ admitted off size = false ∧
      t = badAccess off size { s with prog := rest }) ∨
    (∃ off size w rest, s.prog = .write off size w :: rest ∧ admitted off size = true ∧
      writeWindow off w { s with prog := rest, resp := some .okWrite } = .next t) ∨
    (∃ rest, s.prog = .waitIdle :: rest ∧ t = pollIdle s) := by
  unfold hostStep at h
  split at h
  · next hp => exact .inl ⟨hp, by simpa using h.symm⟩
  · next off size rest hp => exact .inr (.inl ⟨off, size, rest, hp, by simpa using h.symm⟩)
  · next off size w rest hp =>
    unfold hostWrite at h
    split at h
    · next ha => exact .inr (.inr (.inr (.inl ⟨off, size, w, rest, hp, ha, h⟩)))
    · next ha => exact .inr (.inr (.inl ⟨off, size, w, rest, hp, by simpa using ha, by simpa using h.symm⟩))
  · next rest hp => exact .inr (.inr (.inr (.inr ⟨rest, hp, by simpa using h.symm⟩)))

/-- Everything a host read can do (20_memory.md R52, R53). -/
theorem hostRead_cases (off : Offset) (size : Nat) (s : State) :
    (admitted off size = true ∧ hostRead off size s = { s with resp := some (.okRead (readWindow off s)) }) ∨
    (admitted off size = false ∧ hostRead off size s = badAccess off size s) := by
  unfold hostRead
  split
  · next ha => exact .inl ⟨ha, rfl⟩
  · next ha => exact .inr ⟨by simpa using ha, rfl⟩

/-- STATUS as a number: BUSY has weight 1, OVR 2, CODE 256 (10_state.md R23). -/
theorem statusWord_toNat (s : State) :
    (statusWord s).toNat = (codeByte s.code).toNat * 256 + s.ovr.toNat * 2 + (busy s).toNat := by
  have h1 := (codeByte s.code).isLt
  have h2 := s.ovr.toNat_le
  have h3 := (busy s).toNat_le
  have ho : (BitVec.ofBool s.ovr).toNat < 2 ^ 1 := by cases s.ovr <;> decide
  have hb : (BitVec.ofBool (busy s)).toNat < 2 ^ 1 := by cases busy s <;> decide
  simp only [statusWord, BitVec.toNat_append]
  rw [← Nat.shiftLeft_add_eq_or_of_lt hb, ← Nat.shiftLeft_add_eq_or_of_lt ho,
    ← Nat.shiftLeft_add_eq_or_of_lt (by decide : (0#6).toNat < 2 ^ 6), ← Nat.shiftLeft_add_eq_or_of_lt h1]
  simp only [Nat.shiftLeft_eq, BitVec.toNat_ofNat, BitVec.toNat_ofBool]
  omega

/-- BUSY as read from STATUS (10_state.md R23). -/
@[simp] theorem busyOfStatus_statusWord (s : State) : busyOfStatus (statusWord s) = busy s := by
  have h := statusWord_toNat s
  have h3 := s.ovr.toNat_le
  simp only [busyOfStatus, BitVec.getLsbD, Nat.testBit_zero, h]
  cases busy s <;> simp <;> omega

/-- STATUS reads the same of states with the same CODE, OVR and sequencer state (10_state.md R23). -/
theorem statusWord_congr (hc : t.code = s.code) (ho : t.ovr = s.ovr) (hs : t.seq = s.seq) :
    statusWord t = statusWord s := by
  simp only [statusWord, busy, hc, ho, hs]

/-- The window reads the same of states with the same registers and table (10_state.md R20). -/
theorem readWindow_congr (ha : t.arg = s.arg) (hs : statusWord t = statusWord s) (hr : t.result = s.result)
    (hl : t.loops = s.loops) (he : t.errval = s.errval) (hp : t.params = s.params) (hc : t.cfg = s.cfg)
    (off : Offset) : readWindow off t = readWindow off s := by
  unfold readWindow servoWord
  split <;> simp_all

/-- Everything one poll of `waitidle` can do (30_encoding.md R82). -/
theorem pollIdle_eq (s : State) :
    pollIdle s = { s with
      resp := some (.okRead (statusWord s))
      prog := match s.seq with
        | .idle => s.prog.tail
        | .playing => s.prog } := by
  have hb : busyOfStatus (readWindow statusOff s) = busy s := busyOfStatus_statusWord s
  have hr : hostRead statusOff Config.accessBytes s = { s with resp := some (.okRead (statusWord s)) } := rfl
  simp only [pollIdle, hb, hr, busy]
  cases s.seq <;> simp

/-- Everything the capability step can do (41_tone.md R134). -/
theorem capabilityStep_cases (s : State) :
    (s.pwmRun = true ∧ s.pwmDone = false ∧ capabilityStep s = { s with pwmDone := true, pwmRun := false }) ∨
    (¬(s.pwmRun = true ∧ s.pwmDone = false) ∧ capabilityStep s = s) := by
  unfold capabilityStep
  split
  · next h => exact .inl ⟨h.1, h.2, rfl⟩
  · next h => exact .inr ⟨h, rfl⟩

/-- Everything the completion step can do (41_tone.md R136). -/
theorem completionStep_cases (s : State) :
    (s.seq = .playing ∧ s.pwmDone = true ∧
      completionStep s =
        { s with pwmClaim := false, history := s.history ++ [.pwmRelease], seq := .idle }) ∨
    (¬(s.seq = .playing ∧ s.pwmDone = true) ∧ completionStep s = s) := by
  unfold completionStep
  split
  · next h => exact .inl ⟨h.1, h.2, rfl⟩
  · next h => exact .inr ⟨h, rfl⟩

/-- Everything one step can do (20_memory.md R59): the turn at the head of the interleaving. -/
theorem step_cases (h : step s = .next t) :
    (s.turns = [] ∧ t = s) ∨
    (∃ rest, s.turns = .host :: rest ∧ hostStep { s with turns := rest } = .next t) ∨
    (∃ rest, s.turns = .capability :: rest ∧ t = capabilityStep { s with turns := rest }) ∨
    (∃ rest, s.turns = .controller :: rest ∧ t = completionStep { s with turns := rest }) ∨
    (∃ rest, s.turns = .reset :: rest ∧ t = applyReset { s with turns := rest }) ∨
    (∃ rest, s.turns = .resetOverAccess :: rest ∧ t = resetOverAccess { s with turns := rest }) := by
  unfold step at h
  split at h
  · next ht => exact .inl ⟨ht, by simpa using h.symm⟩
  · next u rest ht =>
    cases u with
    | host => exact .inr (.inl ⟨rest, ht, h⟩)
    | capability => exact .inr (.inr (.inl ⟨rest, ht, by simpa [takeTurn] using h.symm⟩))
    | controller => exact .inr (.inr (.inr (.inl ⟨rest, ht, by simpa [takeTurn] using h.symm⟩)))
    | reset => exact .inr (.inr (.inr (.inr (.inl ⟨rest, ht, by simpa [takeTurn] using h.symm⟩))))
    | resetOverAccess => exact .inr (.inr (.inr (.inr (.inr ⟨rest, ht, by simpa [takeTurn] using h.symm⟩))))

end Sys2Proof.Machine
end

