-- ==== Sys2Proof/Laws/Effects.lean ====
section
/-! SUPPORT. What a command and a step can do to the state, said once. -/

namespace Sys2Proof.Machine

/-- An admitted access is an aligned one of 4 bytes (20_memory.md R52). -/
theorem admitted_true {off : Offset} {size : Nat} (h : admitted off size = true) :
    size = 4 ∧ off.toNat % 4 = 0 := by
  simpa [admitted] using h

/-- What keeps an access from being admitted (20_memory.md R52). -/
theorem admitted_false {off : Offset} {size : Nat} (h : admitted off size = false) :
    size ≠ 4 ∨ off.toNat % 4 ≠ 0 := by
  by_contra hc
  obtain ⟨h1, h2⟩ := not_or.1 hc
  simp [admitted, not_not.1 h1, not_not.1 h2] at h

/-- The aligned offset of slot 0 is CMD's (10_state.md R20). -/
theorem offset_cmd {off : Offset} (h : off.toNat % 4 = 0) (h2 : off.toNat / 4 = 0) : off = 0x00#6 := by
  apply BitVec.eq_of_toNat_eq; simp; omega

/-- The aligned offset of slot 2 is STATUS's (10_state.md R20). -/
theorem offset_status {off : Offset} (h : off.toNat % 4 = 0) (h2 : off.toNat / 4 = 2) : off = 0x08#6 := by
  apply BitVec.eq_of_toNat_eq; simp; omega

/-- Every effect a command has on the state: an accepted TPLAY, registers only, one slot written, or an SSCL's end. -/
theorem exec_effects {i : Instr} {s t : State} (h : exec i s = .next t) :
    (∃ key n l, i = .tplay key ∧ n ≠ 0 ∧ n ≤ s.params.pwmPeriodMax.toNat ∧ l ≠ 0 ∧
      l ≤ s.params.pwmLoopMax.toNat ∧ t = playTone (BitVec.ofNat 32 n) (BitVec.ofNat 32 l) s) ∨
    (t = { s with code := t.code, errval := t.errval, result := t.result, loops := t.loops }) ∨
    (∃ (ch : BitVec 8) (val : BitVec 16) (j : Slot), i = .scfg ch val ∧ ch.toNat = j.val + 1 ∧ 1 ≤ val.toNat ∧
      val.toNat ≤ 359 ∧ s.cfg[j] = none ∧
      t = { s with cfg := s.cfg.set j.val (some (val.setWidth 9)) j.isLt, code := .ok }) ∨
    (∃ (ch : BitVec 8) (val : BitVec 16) (j : Slot) (m : MaxAngle), i = .sscl ch val ∧ ch.toNat = j.val + 1 ∧
      s.cfg[j] = some m ∧ val.toNat ≤ m.toNat ∧
      ((180 < scaleAngle val.toNat m.toNat ∧ t = { s with code := .internal, fault := some .scaleInvariant }) ∨
       (scaleAngle val.toNat m.toNat ≤ 180 ∧
        t = { s with
              code := .ok
              result := t.result
              history := s.history ++ [.servoOut j (BitVec.ofNat 8 (scaleAngle val.toNat m.toNat))] }))) := by
  cases i with
  | scfg ch val =>
    rcases execScfg_cases h with
      ⟨_, rfl⟩ | ⟨i, hi, ⟨_, rfl⟩ | ⟨_, rfl⟩ | ⟨_, _, _, rfl⟩ | ⟨h1, h2, h3, rfl⟩⟩
    · simp
    · simp
    · simp
    · simp
    · exact .inr (.inr (.inl ⟨ch, val, i, rfl, slotOf_eq_some.1 hi, h1, h2, h3, rfl⟩))
  | sscl ch val =>
    rcases execSscl_cases h with
      ⟨_, rfl⟩ | ⟨i, hi, ⟨_, rfl⟩ | ⟨_, _, rfl⟩ | ⟨m, hm, _, ⟨_, rfl⟩ | ⟨hle, hgt, rfl⟩ | ⟨h1, h2, rfl⟩⟩⟩
    · simp
    · simp
    · simp
    · simp
    · exact .inr (.inr (.inr ⟨ch, val, i, m, rfl, slotOf_eq_some.1 hi, hm, hle, .inl ⟨hgt, rfl⟩⟩))
    · exact .inr (.inr (.inr ⟨ch, val, i, m, rfl, slotOf_eq_some.1 hi, hm, h1, .inr ⟨h2, rfl⟩⟩))
  | tper key => rcases execTper_cases h with ⟨_, rfl⟩ | ⟨_, rfl⟩ <;> simp
  | tlcnt key =>
    rcases execTlcnt_cases h with
      ⟨_, rfl⟩ | ⟨_, n, _, ⟨_, rfl⟩ | ⟨l, _, _, ⟨_, rfl⟩ | ⟨_, rfl⟩⟩⟩ <;> simp
  | tplay key =>
    rcases execTplay_cases h with
      ⟨_, rfl⟩ | ⟨_, n, _, ⟨_, rfl⟩ | ⟨l, _, h0, h1, ⟨_, rfl⟩ | ⟨h2, h3, rfl⟩⟩⟩
    · simp
    · simp
    · simp
    · exact .inl ⟨key, n, l, rfl, h0, h1, h2, h3, rfl⟩

/-- Every effect a step has on the state: a command issued, an overrun, a STATUS write, an access that is not admitted,
nothing but the host's side and ARG, a capability step, a completion step, or a reset. -/
theorem step_effects {s t : State} (h : step s = .next t) :
    (∃ rest ops w, s.turns = .host :: rest ∧ s.prog = .write 0x00#6 4 w :: ops ∧ s.seq = .idle ∧
      issueCmd w { s with turns := rest, prog := ops, resp := some .okWrite } = .next t) ∨
    (∃ rest ops w, s.turns = .host :: rest ∧ s.prog = .write 0x00#6 4 w :: ops ∧ s.seq = .playing ∧
      t = overrunCmd w { s with turns := rest, prog := ops, resp := some .okWrite }) ∨
    (∃ rest ops w, s.turns = .host :: rest ∧ s.prog = .write 0x08#6 4 w :: ops ∧
      t = writeStatus w { s with turns := rest, prog := ops, resp := some .okWrite }) ∨
    (∃ rest ops op off size, s.turns = .host :: rest ∧ s.prog = op :: ops ∧
      (op = .read off size ∨ ∃ w, op = .write off size w) ∧ (size ≠ 4 ∨ off.toNat % 4 ≠ 0) ∧
      t = badAccess off size { s with turns := rest, prog := ops }) ∨
    (t = { s with turns := t.turns, prog := t.prog, resp := t.resp, arg := t.arg }) ∨
    (∃ rest, s.turns = .capability :: rest ∧ s.pwmRun = true ∧ s.pwmDone = false ∧
      t = { s with turns := rest, pwmDone := true, pwmRun := false }) ∨
    (∃ rest, s.turns = .controller :: rest ∧ s.seq = .playing ∧ s.pwmDone = true ∧
      t = { s with turns := rest, pwmClaim := false, history := s.history ++ [.pwmRelease], seq := .idle }) ∨
    (∃ rest p, (s.turns = .reset :: rest ∨ s.turns = .resetOverAccess :: rest) ∧
      t = applyReset { s with turns := rest, prog := p }) := by
  rcases step_cases h with ⟨hr, rfl⟩ | ⟨rest, hr, hh⟩ | ⟨rest, hr, rfl⟩ | ⟨rest, hr, rfl⟩ | ⟨rest, hr, rfl⟩ |
    ⟨rest, hr, rfl⟩
  · simp
  · rcases hostStep_cases hh with ⟨_, rfl⟩ | ⟨off, size, ops, hp, rfl⟩ | ⟨off, size, w, ops, hp, ha, rfl⟩ |
      ⟨off, size, w, ops, hp, ha, hw⟩ | ⟨ops, hp, rfl⟩
    · simp
    · rcases hostRead_cases off size { s with turns := rest, prog := ops } with ⟨_, e⟩ | ⟨hb, e⟩
      · simp only at *; rw [e]; simp
      · refine .inr (.inr (.inr (.inl ⟨rest, ops, _, off, size, hr, hp, .inl rfl, admitted_false hb, ?_⟩)))
        simp only at *; rw [e]
    · exact .inr (.inr (.inr (.inl ⟨rest, ops, _, off, size, hr, hp, .inr ⟨w, rfl⟩, admitted_false ha, rfl⟩)))
    · obtain ⟨rfl, hm⟩ := admitted_true ha
      rcases writeWindow_cases hw with ⟨a, b, rfl⟩ | ⟨a, b, c⟩ | ⟨_, rfl⟩ | ⟨a, rfl⟩ | ⟨_, rfl⟩
      · obtain rfl := offset_cmd hm a; exact .inr (.inl ⟨rest, ops, w, hr, hp, b, rfl⟩)
      · obtain rfl := offset_cmd hm a; exact .inl ⟨rest, ops, w, hr, hp, b, c⟩
      · simp
      · obtain rfl := offset_status hm a; exact .inr (.inr (.inl ⟨rest, ops, w, hr, hp, rfl⟩))
      · simp
    · rw [pollIdle_eq]; simp
  · rcases capabilityStep_cases { s with turns := rest } with ⟨a, b, e⟩ | ⟨_, e⟩ <;> rw [e]
    · exact .inr (.inr (.inr (.inr (.inr (.inl ⟨rest, hr, a, b, rfl⟩)))))
    · simp
  · rcases completionStep_cases { s with turns := rest } with ⟨a, b, e⟩ | ⟨_, e⟩ <;> rw [e]
    · exact .inr (.inr (.inr (.inr (.inr (.inr (.inl ⟨rest, hr, a, b, rfl⟩))))))
    · simp
  · exact .inr (.inr (.inr (.inr (.inr (.inr (.inr ⟨rest, s.prog, .inl hr, rfl⟩))))))
  · exact .inr (.inr (.inr (.inr (.inr (.inr (.inr ⟨rest, _, .inr hr, rfl⟩))))))

end Sys2Proof.Machine
end

