-- ==== Sys2Proof/Laws/PerInstr.lean ====
section
/-! SUPPORT. Statements made of each instruction as syntax. -/

namespace Sys2Proof.Laws.TableRow

/-- The command's word has the opcode table's match value under the table's mask, whatever its operands. -/
def Statement (i : Instr) : Prop := encode i &&& opcodeMask i = opcodeMatch i

/-- Masking a word's low `k` bits away is keeping its high ones. -/
theorem mask_high (w : Word) (k : Nat) (hk : k ≤ 32) :
    (w &&& BitVec.ofNat 32 (2 ^ 32 - 2 ^ k)).toNat = w.toNat / 2 ^ k * 2 ^ k := by
  apply Nat.eq_of_testBit_eq
  intro i
  have hm : (2 ^ 32 - 2 ^ k) = (2 ^ (32 - k) - 1) * 2 ^ k := by
    rw [Nat.sub_mul, ← pow_add, Nat.sub_add_cancel hk, one_mul]
  have hlt : 2 ^ 32 - 2 ^ k < 2 ^ 32 := by have := Nat.two_pow_pos k; omega
  rw [BitVec.toNat_and, BitVec.toNat_ofNat, Nat.mod_eq_of_lt hlt, hm]
  by_cases h : k ≤ i
  · by_cases h2 : i < 32
    · simp [Nat.testBit_mul_two_pow, Nat.testBit_div_two_pow, Nat.testBit_two_pow_sub_one, h, show i - k < 32 - k by omega]
    · have : w.toNat.testBit i = false :=
        Nat.testBit_lt_two_pow (lt_of_lt_of_le w.isLt (Nat.pow_le_pow_right (by decide) (by omega)))
      simp [Nat.testBit_mul_two_pow, Nat.testBit_div_two_pow, this, h]
  · simp [Nat.testBit_mul_two_pow, h]

theorem mask_servo (op : BitVec 4) (ch : BitVec 8) (val : BitVec 16) :
    (packFields op ch val &&& 0xFF000000#32).toNat = op.toNat * 2 ^ 28 := by
  have h := mask_high (packFields op ch val) 24 (by decide)
  have h2 := ch.isLt
  have h3 := val.isLt
  rw [packFields_toNat] at h
  rw [show (0xFF000000#32 : Word) = BitVec.ofNat 32 (2 ^ 32 - 2 ^ 24) from rfl, h]
  omega

theorem mask_tone (op : BitVec 4) (val : BitVec 16) :
    (packFields op 0#8 val &&& 0xFFFF0000#32).toNat = op.toNat * 2 ^ 28 := by
  have h := mask_high (packFields op 0#8 val) 16 (by decide)
  have h3 := val.isLt
  rw [packFields_toNat] at h
  rw [show (0xFFFF0000#32 : Word) = BitVec.ofNat 32 (2 ^ 32 - 2 ^ 16) from rfl, h]
  simp only [BitVec.toNat_ofNat]
  omega

theorem scfg (ch : BitVec 8) (val : BitVec 16) : Statement (.scfg ch val) :=
  BitVec.eq_of_toNat_eq (mask_servo 0x1#4 ch val)
theorem sscl (ch : BitVec 8) (val : BitVec 16) : Statement (.sscl ch val) :=
  BitVec.eq_of_toNat_eq (mask_servo 0x2#4 ch val)
theorem tper (key : BitVec 16) : Statement (.tper key) := BitVec.eq_of_toNat_eq (mask_tone 0x3#4 key)
theorem tlcnt (key : BitVec 16) : Statement (.tlcnt key) := BitVec.eq_of_toNat_eq (mask_tone 0x4#4 key)
theorem tplay (key : BitVec 16) : Statement (.tplay key) := BitVec.eq_of_toNat_eq (mask_tone 0x5#4 key)

end Sys2Proof.Laws.TableRow
end

