-- ==== Sys2Proof/Laws/Safety.lean ====
section
/-! SUPPORT. The small lemmas of the history's phases. -/

namespace Sys2Proof.Machine

@[simp] theorem nextPhase_claim : nextPhase .released .pwmClaim = some .claimed := rfl
@[simp] theorem nextPhase_start (t l : Word) :
    nextPhase .claimed (.pwmStart t l) = if t = 0#32 ∨ l = 0#32 then none else some .started := rfl
@[simp] theorem nextPhase_release : nextPhase .started .pwmRelease = some .released := rfl
@[simp] theorem nextPhase_servoOut (i : Slot) (raw : BitVec 8) :
    nextPhase .released (.servoOut i raw) = if raw.toNat ≤ Config.nativeMax then some .released else none := rfl
@[simp] theorem nextPhase_reset : nextPhase .released .reset = some .released := rfl

@[simp] theorem historyPhase_nil (p : Phase) : historyPhase p [] = some p := rfl
@[simp] theorem historyPhase_cons (p : Phase) (e : Event) (es : List Event) :
    historyPhase p (e :: es) = (nextPhase p e).bind fun q => historyPhase q es := rfl

/-- The phase of a longer history is the phase of what was appended, from the phase before it. -/
theorem historyPhase_append (p : Phase) (a b : List Event) :
    historyPhase p (a ++ b) = (historyPhase p a).bind fun q => historyPhase q b := by
  induction a generalizing p with
  | nil => rfl
  | cons e es ih =>
    simp only [List.cons_append, historyPhase_cons, Option.bind_assoc]
    congr 1
    funext q
    exact ih q

end Sys2Proof.Machine
end

