-- ==== Sys2Proof/Laws/Run.lean ====
section
/-! SUPPORT. How a run of several steps unfolds. -/

namespace Sys2Proof.Machine

variable {s t : State}

@[simp] theorem run_zero (s : State) : run 0 s = .next s := rfl

theorem run_succ (h : step s = .next t) (k : Nat) : run (k + 1) s = run k t := by
  simp [run, h]

theorem run_add {j k : Nat} (h : run j s = .next t) : run (j + k) s = run k t := by
  induction j generalizing s with
  | zero =>
    have : s = t := by simpa using h
    simp [this]
  | succ j ih =>
    cases hs : step s with
    | next u =>
      rw [run_succ hs] at h
      rw [show j + 1 + k = (j + k) + 1 by omega, run_succ hs, ih h]
    | fault r => simp [run, hs] at h
    | refused r => simp [run, hs] at h

/-- `run` is the host's own run of the machine. -/
theorem run_eq_core_run (k : Nat) (s : State) : run k s = Host.Core.run Sys2Proof.core k s := by
  induction k generalizing s with
  | zero => rfl
  | succ k ih =>
    cases hs : step s with
    | next t =>
      have h' : Sys2Proof.core.step s = .next t := hs
      simp only [run, hs, Host.Core.run, h']
      exact ih t
    | fault r =>
      have h' : Sys2Proof.core.step s = .fault r := hs
      simp only [run, hs, Host.Core.run, h']
      rfl
    | refused r =>
      have h' : Sys2Proof.core.step s = .refused r := hs
      simp only [run, hs, Host.Core.run, h']
      rfl

end Sys2Proof.Machine
end

