-- ==== Sys2Proof/Tests/Slice0.lean ====
section
/-! SUPPORT. Tests: the assembler's refusals (30_encoding.md R80), words written out from the layouts of R70 and R71, the
vectors of 95_test_vectors.md, and for each statement with hypotheses a state and operands that meet them. -/

namespace Sys2Proof.Tests
open Sys2Proof Sys2Proof.Machine

/-! ### Helpers -/

/-- The host has these accesses to issue and nothing else moves. -/
def hostDoes (ops : List HostOp) (s : State) : State :=
  { s with prog := ops, turns := ops.map fun _ => .host }

/-- The next turn is the host's, which writes the word to CMD. -/
def issues (w : Word) (s : State) : State := hostDoes [.write 0x00#6 4 w] s

/-- Slot `i` holds the maximum `m`. -/
def withSlot (i : Slot) (m : MaxAngle) (s : State) : State := { s with cfg := s.cfg.set i.val (some m) i.isLt }

/-- The state V-Q2 starts from: `wr ARG, 100; wr CMD, tplay 69` accepted (95_test_vectors.md). -/
def playing : State :=
  { State.reset with
    arg := 100#32, result := 4545#32, loops := 22#32, seq := .playing, pwmClaim := true, pwmPeriod := 4545#32,
    pwmLoops := 22#32, pwmRun := true, history := [.reset, .pwmClaim, .pwmStart 4545#32 22#32] }

/-- The same burst with the flag raised. -/
def played : State := { playing with pwmRun := false, pwmDone := true }

/-- What a step's next state shows under `f`; none where the step answers no next state. -/
def after {α : Type} (f : State → α) : Host.Outcome State Fault Refusal → Option α
  | .next t => some (f t)
  | .fault _ => none
  | .refused _ => none

/-- OP, RSV, CH and VAL of a word as numbers (30_encoding.md R70). -/
def fields (w : Nat) : Nat × Nat × Nat × Nat := (w / 2 ^ 28, w / 2 ^ 24 % 16, w / 2 ^ 16 % 256, w % 2 ^ 16)

/-! ### The assembler refuses a term that does not fit (30_encoding.md R80) -/

theorem test_wf_scfg_channel : (Asm.scfg 256 1).wellFormed = false := by decide
theorem test_wf_scfg_value : (Asm.scfg 1 65536).wellFormed = false := by decide
theorem test_wf_sscl_channel : (Asm.sscl 256 1).wellFormed = false := by decide
theorem test_wf_sscl_value : (Asm.sscl 1 65536).wellFormed = false := by decide
theorem test_wf_tper_key : (Asm.tper 65536).wellFormed = false := by decide
theorem test_wf_tlcnt_key : (Asm.tlcnt 65536).wellFormed = false := by decide
theorem test_wf_tplay_key : (Asm.tplay 65536).wellFormed = false := by decide
theorem test_wf_encodable : (Asm.scfg 0 360).assemble = some (.scfg 0#8 360#16) := by decide

/-! ### Decoding: OP, RSV, CH, VAL written out bit by bit from 30_encoding.md R70 and R71 -/

theorem test_decode_scfg : decode 0b0001_0000_00000011_0000000100001110#32 = .cmd (.scfg 3#8 270#16) := by decide
theorem test_decode_sscl : decode 0b0010_0000_00000011_0000000001011010#32 = .cmd (.sscl 3#8 90#16) := by decide
theorem test_decode_tper : decode 0b0011_0000_00000000_0000000001000101#32 = .cmd (.tper 69#16) := by decide
theorem test_decode_tlcnt : decode 0b0100_0000_00000000_0000000001000101#32 = .cmd (.tlcnt 69#16) := by decide
theorem test_decode_tplay : decode 0b0101_0000_00000000_0000000010000000#32 = .cmd (.tplay 128#16) := by decide
/-- 95_test_vectors.md V-D1, the ILLEGAL rows. -/
theorem test_decode_illegal :
    decode 0x00000000#32 = .illegal .reservedOpcode ∧ decode 0x60000000#32 = .illegal .reservedOpcode ∧
    decode 0xF0000000#32 = .illegal .reservedOpcode ∧ decode 0x11030005#32 = .illegal .reservedField ∧
    decode 0x30010045#32 = .illegal .toneChannel ∧ decode 0x40FF0000#32 = .illegal .toneChannel := by decide
/-- 20_memory.md R51: the lowest lane carries bits 7:0. -/
theorem test_decode_lanes : decodeLanes [0x0E#8, 0x01#8, 0x03#8, 0x10#8] = .cmd (.scfg 3#8 270#16) := by decide
/-- 95_test_vectors.md V-C1 row 1 and V-P1 row 1, the words. -/
theorem test_encode : encode (.scfg 3#8 270#16) = 0x1003010E#32 ∧ encode (.tplay 69#16) = 0x50000045#32 := by decide

/-! ### Vectors of 95_test_vectors.md -/

/-- V-C1 row 11. -/
theorem test_scfg_ok :
    after (fun t => (t.code, readWindow 0x3C#6 t)) (step (issues 0x10080167#32 State.reset)) =
      some (.ok, 0x80000167#32) := by decide
/-- V-C1 row 8: the zero check comes before the repeat check. -/
theorem test_scfg_zero_first :
    after (fun t => (t.code, readWindow 0x20#6 t)) (step (issues 0x10010000#32 (withSlot 0 90#9 State.reset))) =
      some (.zeroMax, 0x8000005A#32) := by decide
/-- V-S2 row 15: floor, not rounding. -/
theorem test_sscl_floor :
    after (fun t => (t.code, t.result, t.history)) (step (issues 0x20030004#32 (withSlot 2 7#9 State.reset))) =
      some (.ok, 102#32, [.reset, .servoOut 2 102#8]) := by decide
/-- V-S3 row 2: the value check comes before the table check. -/
theorem test_sscl_value_first :
    after (fun t => (t.code, t.errval, t.history)) (step (issues 0x20030168#32 State.reset)) =
      some (.invalidAngle, 0x168#32, [.reset]) := by decide
/-- V-T1 key 69 and V-T3 row 1. -/
theorem test_tper :
    after (fun t => (t.code, t.result)) (step (issues 0x30000045#32 State.reset)) = some (.ok, 4545#32) := by decide
/-- V-T2: a tie is rounded upward, and the largest period. -/
theorem test_ticks : ticks 660 69 = 2 ∧ ticks 4294967295 0 = 525326924 := by decide
/-- V-L1 row 1. -/
theorem test_tlcnt :
    after (fun t => (t.code, t.result, t.loops)) (step (issues 0x40000045#32 { State.reset with arg := 1000#32 })) =
      some (.ok, 4545#32, 220#32) := by decide
/-- V-L1 row 9. -/
theorem test_tlcnt_range :
    after (fun t => (t.code, t.result, t.loops)) (step (issues 0x4000007F#32 { State.reset with arg := 0xFFFFFFFF#32 })) =
      some (.loopRange, 0#32, 0#32) := by decide
/-- V-P1 row 1. -/
theorem test_tplay :
    after (fun t => (t.code, statusWord t, t.history)) (step (issues 0x50000045#32 { State.reset with arg := 1000#32 })) =
      some (.ok, 1#32, [.reset, .pwmClaim, .pwmStart 4545#32 220#32]) := by decide
/-- V-P1 row 8, at CFG-B. -/
theorem test_tplay_period_range :
    after (fun t => (t.code, t.result, statusWord t))
        (step (issues 0x50000022#32 { State.powerUp Config.cfgB with arg := 1000#32 })) =
      some (.periodRange, 0#32, 0x900#32) := by decide
/-- V-Q2. -/
theorem test_overrun :
    after (fun t => (statusWord t, t.fault, readWindow 0x20#6 t)) (step (issues 0x1001005A#32 playing)) =
      some (3#32, some (.overrun 0x1001005A#32), 0#32) := by decide
/-- V-R1, the write of 0xFFFFFFFD and the 1-byte read. -/
theorem test_status_access :
    after (fun t => statusWord t)
        (step (hostDoes [wr statusOff 0xFFFFFFFD#32] { State.reset with ovr := true, code := .repeatChannel })) =
      some 0x502#32 ∧
    after (fun t => (t.resp, t.fault)) (step (hostDoes [.read 0x08#6 1] State.reset)) =
      some (some .error, some (.badAccess 0x08#6 1)) := by decide
/-- V-Z1. -/
theorem test_reset_while_playing :
    after (fun t => (t.history, statusWord t, readWindow 0x18#6 t)) (step { playing with turns := [.reset] }) =
      some ([.reset, .pwmClaim, .pwmStart 4545#32 22#32, .pwmRelease, .reset], 0#32, 2000000#32) := by decide

/-! ### Witnesses: the hypotheses of each statement are met -/

theorem reset_inv : Inv State.reset :=
  ⟨by decide, by decide, by decide, by decide, by decide, by decide⟩

theorem playing_inv : Inv playing :=
  ⟨by decide, by decide, by decide, by decide, by decide, by decide⟩

theorem witness_EncodeInvertsDecode : decode 0x1003010E#32 = .cmd (.scfg 3#8 270#16) := test_decode_scfg

/-- RSV at 1 and 15, and opcodes with their operand fields at their ends. -/
theorem witness_DecodeFollowsOpcodeMap :
    fields 0x11030005 = (1, 1, 3, 5) ∧ fields 0xFFFFFFFF = (15, 15, 255, 65535) ∧
    fields 0x10FFFFFF = (1, 0, 255, 65535) ∧ fields 0x20000000 = (2, 0, 0, 0) ∧
    fields 0x3000FFFF = (3, 0, 0, 65535) := by decide

/-- The other tone opcodes, CH other than 0 in a tone word, and the reserved opcodes' ends. -/
theorem witness_DecodeFollowsOpcodeMap_tone :
    fields 0x40000000 = (4, 0, 0, 0) ∧ fields 0x50000080 = (5, 0, 0, 128) ∧
    fields 0x30010045 = (3, 0, 1, 69) ∧ fields 0x50FF0000 = (5, 0, 255, 0) ∧
    fields 0x00FFFFFF = (0, 0, 255, 65535) ∧ fields 0x60000000 = (6, 0, 0, 0) ∧ fields 0xF0000000 = (15, 0, 0, 0) := by
  decide

theorem witness_ReservedWordsExecuteIllegal :
    State.reset.seq = .idle ∧ fields 0x00000000 = (0, 0, 0, 0) ∧ fields 0x60000000 = (6, 0, 0, 0) ∧
    fields 0x11030005 = (1, 1, 3, 5) ∧ fields 0x30010045 = (3, 0, 1, 69) ∧ fields 0x50FF0000 = (5, 0, 255, 0) := by
  decide

theorem witness_AssemblerFollowsLayout :
    (255 ≤ 255 ∧ 65535 ≤ 65535) ∧ (255 < 256 ∧ 65535 < 65536) := by decide

theorem witness_LanesAreLittleEndian :
    ([] : List Byte).length ≠ 4 ∧ [0#8, 0#8, 0#8, 0#8, 0#8].length ≠ 4 := by decide

theorem witness_StepRunsDecodedCommand :
    (issues 0x1003010E#32 State.reset).turns = .host :: [] ∧
    (issues 0x1003010E#32 State.reset).prog = .write 0x00#6 4 0x1003010E#32 :: [] ∧
    (issues 0x1003010E#32 State.reset).seq = .idle ∧ decode 0x1003010E#32 = .cmd (.scfg 3#8 270#16) := by decide

theorem witness_FetchWordRunsDecodedCommand :
    decode 0x50000045#32 = .cmd (.tplay 69#16) ∧ State.reset.seq = .idle ∧ playing.seq = .playing := by decide

/-- Channels 0, 9 and 255; slots 0 and 7; the values 360, 0, 1 and 359; a free and a taken slot. -/
theorem witness_ScfgFollowsItsRule :
    ((0#8).toNat = 0 ∧ 8 < (9#8).toNat ∧ 8 < (255#8).toNat) ∧
    ((1#8).toNat = (0 : Slot).val + 1 ∧ (8#8).toNat = (7 : Slot).val + 1) ∧
    (359 < (360#16).toNat ∧ (0#16).toNat = 0 ∧ 1 ≤ (1#16).toNat ∧ (359#16).toNat ≤ 359) ∧
    (withSlot 7 359#9 State.reset).cfg[(7 : Slot)] ≠ none ∧ State.reset.cfg[(7 : Slot)] = none := by decide

/-- The same, with the maxima 1 and 359 and angles on both sides of each. -/
theorem witness_SsclFollowsItsRule :
    ((0#8).toNat = 0 ∧ 8 < (9#8).toNat) ∧ (8#8).toNat = (7 : Slot).val + 1 ∧ 359 < (360#16).toNat ∧
    State.reset.cfg[(7 : Slot)] = none ∧
    ((withSlot 7 1#9 State.reset).cfg[(7 : Slot)] = some 1#9 ∧ 1 ≤ (1#9).toNat ∧
      (1#9).toNat < (2#16).toNat ∧ (1#16).toNat ≤ (1#9).toNat ∧ (0#16).toNat ≤ (1#9).toNat) ∧
    ((withSlot 7 359#9 State.reset).cfg[(7 : Slot)] = some 359#9 ∧ (359#16).toNat ≤ (359#9).toNat) := by decide

theorem witness_ScalingLawIsFloor :
    (1 ≤ 1 ∧ 1 ≤ 359 ∧ 0 ≤ 1) ∧ (1 ≤ 359 ∧ 359 ≤ 359 ∧ 358 ≤ 359 ∧ 359 ≤ 359) := by decide

theorem witness_ScaleInvariantUnreachable :
    TableInRange (withSlot 2 1#9 State.reset) ∧
    ∃ t, issueCmd 0x20030001#32 (withSlot 2 1#9 State.reset) = .next t := ⟨by decide, _, rfl⟩

theorem witness_ChannelRoundTrip :
    (1 ≤ (1#8).toNat ∧ (8#8).toNat ≤ 8) ∧ (0#8).toNat = 0 ∧ 8 < (9#8).toNat := by decide

/-- A slot written, and a slot cleared by each reset turn. -/
theorem witness_TableIsWriteOnce :
    CleanEntry State.reset ∧ run 0 State.reset = .next State.reset ∧ TableInRange State.reset ∧
    (∃ t, step (issues 0x10080167#32 State.reset) = .next t ∧ t.cfg[(7 : Slot)] ≠ none) ∧
    (∃ t, step { withSlot 0 1#9 State.reset with turns := [.reset] } = .next t ∧ t.cfg[(0 : Slot)] ≠ some 1#9) ∧
    ∃ t, step { withSlot 0 1#9 State.reset with turns := [.resetOverAccess] } = .next t ∧
      t.cfg[(0 : Slot)] ≠ some 1#9 :=
  ⟨by decide, rfl, by decide, ⟨_, rfl, by decide⟩, ⟨_, rfl, by decide⟩, ⟨_, rfl, by decide⟩⟩

/-- For the statements over `F` below 2^32 and valid keys: the ends of both ranges, and a candidate below the period. -/
theorem witness_TicksIsLeastPassing :
    (0 < 2 ^ 32 ∧ 0 ≤ 127) ∧ (2 ^ 32 - 1 < 2 ^ 32 ∧ 127 ≤ 127) ∧ 1 < ticks 660 69 := by decide

theorem witness_TicksIsRoundedQuotient : (0 < 2 ^ 32 ∧ 0 ≤ 127) ∧ (2 ^ 32 - 1 < 2 ^ 32 ∧ 127 ≤ 127) := by decide

/-- 95_test_vectors.md V-T2: F = 660 at key 69 is exactly 1.5, so the tie is at n = 1. -/
theorem witness_TiesOnlyOctavesFromA4 :
    1 ≤ 660 ∧ 660 < 2 ^ 32 ∧ 69 ≤ 127 ∧ periodLhs 660 69 = periodRhs 69 1 ∧
    (1 ≤ 2 ^ 32 - 1 ∧ 2 ^ 32 - 1 < 2 ^ 32 ∧ 127 ≤ 127) := by decide

theorem witness_TicksFitsWord : (0 < 2 ^ 32 ∧ 127 ≤ 127) ∧ (2 ^ 32 - 1 < 2 ^ 32 ∧ 0 ≤ 127) := by decide

/-- F at both ends; keys 0 and 127; 12 semitones apart; both sides of the bound 6272. -/
theorem witness_TicksFallsWithKey :
    (1 ≤ 1 ∧ 1 < 2 ^ 32) ∧ (1 ≤ 2 ^ 32 - 1 ∧ 2 ^ 32 - 1 < 2 ^ 32) ∧ (0 ≤ 127 ∧ 127 ≤ 127) ∧ 115 + 12 ≤ 127 ∧
    (1 ≤ ticks 6272 127 ∧ ticks 6271 127 = 0) := by decide

theorem witness_PitchErrorIsBounded :
    6272 < 2 ^ 32 ∧ 127 ≤ 127 ∧ 1 ≤ ticks 6272 127 ∧
    ∃ freq : ℝ, freq = 440 * (2 : ℝ) ^ ((((127 : ℕ) : ℝ) - 69) / 12) :=
  ⟨by decide, by decide, by decide, _, rfl⟩

theorem witness_LoopCountIsFloor :
    (0 < 2 ^ 32 ∧ 1 < 2 ^ 32 ∧ 1 ≤ 1) ∧ (2 ^ 32 - 1 < 2 ^ 32 ∧ 1 ≤ 2 ^ 32 - 1) := by decide

theorem witness_TperFollowsItsRule : 127 < (128#16).toNat ∧ (127#16).toNat ≤ 127 ∧ (0#16).toNat ≤ 127 := by decide

/-- At CFG-A and at F = 6271: a period of 0, and loop counts at and above 2^32 - 1 and at 0. -/
theorem witness_TlcntFollowsItsRule :
    127 < (128#16).toNat ∧ (127#16).toNat ≤ 127 ∧ ticks 6271 127 = 0 ∧ ticks 2000000 127 = 159 ∧
    2 ^ 32 - 1 < (0xFFFFFFFF#32).toNat * 2000000 / (2000 * 159) ∧ (0#32).toNat * 2000000 / (2000 * 159) ≤ 2 ^ 32 - 1 := by
  decide

/-- 95_test_vectors.md V-P1 rows 8 to 11: both sides of the two limits of CFG-B, and a loop count of 0. -/
theorem witness_TplayFollowsItsRule :
    127 < (128#16).toNat ∧ (127#16).toNat ≤ 127 ∧ ticks 6271 127 = 0 ∧
    Config.cfgB.pwmPeriodMax.toNat < ticks 2000000 34 ∧ ticks 2000000 35 ≤ Config.cfgB.pwmPeriodMax.toNat ∧
    ticks 2000000 69 = 4545 ∧ (0#32).toNat * 2000000 / (2000 * 4545) = 0 ∧
    Config.cfgB.pwmLoopMax.toNat < (298000#32).toNat * 2000000 / (2000 * 4545) ∧
    (297000#32).toNat * 2000000 / (2000 * 4545) ≤ Config.cfgB.pwmLoopMax.toNat := by decide

theorem witness_ServoCommandFrames :
    TableInRange (withSlot 2 270#9 State.reset) ∧
    (∃ t, exec (.scfg 1#8 359#16) (withSlot 2 270#9 State.reset) = .next t ∧ t.code = .ok) ∧
    (∃ t, exec (.sscl 3#8 90#16) (withSlot 2 270#9 State.reset) = .next t ∧ t.code = .ok) ∧
    (1#8).toNat ≠ (2 : Slot).val + 1 ∧ (0x28#6).toNat / 4 ≠ 7 + (1#8).toNat :=
  ⟨by decide, ⟨_, rfl, rfl⟩, ⟨_, rfl, rfl⟩, by decide, by decide⟩

theorem witness_ToneCommandFrames :
    (∃ t, exec (.tper 69#16) State.reset = .next t) ∧ (∃ t, exec (.tlcnt 69#16) State.reset = .next t) ∧
    (∃ t, exec (.tplay 69#16) { State.reset with arg := 1000#32 } = .next t ∧ t.code = .ok) ∧
    (∃ t, exec (.tplay 128#16) State.reset = .next t ∧ t.code ≠ .ok) ∧ (0x04#6).toNat / 4 = 1 :=
  ⟨⟨_, rfl⟩, ⟨_, rfl⟩, ⟨_, rfl, rfl⟩, ⟨_, rfl, by decide⟩, by decide⟩

theorem witness_CapabilityStepRaisesFlag :
    { playing with turns := [.capability] }.turns = .capability :: [] ∧ playing.pwmRun = true ∧
    playing.pwmDone = false := by decide

theorem witness_CompletionStepReleases :
    { played with turns := [.controller] }.turns = .controller :: [] ∧ played.seq = .playing ∧
    played.pwmDone = true := by decide

theorem witness_DisabledTurnsChangeNothing :
    State.reset.pwmRun = false ∧ { playing with pwmDone := true }.pwmDone = true ∧ State.reset.seq = .idle ∧
    playing.pwmDone = false ∧ State.reset.prog = [] ∧ State.reset.turns = [] := by decide

/-- From IDLE and from PLAYING. -/
theorem witness_ResetGivesResetState :
    { State.reset with turns := [.reset] }.turns = .reset :: [] ∧ State.reset.seq = .idle ∧
    { playing with turns := [.reset] }.turns = .reset :: [] ∧ playing.seq = .playing ∧
    (0x3C#6).toNat / 4 ≠ 6 ∧ (0x18#6).toNat / 4 = 6 := by decide

/-- A read, a write, a poll, and nothing to do. -/
theorem witness_ResetLosesAccess :
    { hostDoes [.waitIdle] playing with turns := [.resetOverAccess] }.turns = .resetOverAccess :: [] ∧
    (hostDoes [.waitIdle] playing).prog = .waitIdle :: [] ∧ (hostDoes [] playing).prog = [] ∧
    { hostDoes [.read 0x08#6 4] playing with turns := [.resetOverAccess] }.turns = .resetOverAccess :: [] ∧
    (hostDoes [.read 0x08#6 4] playing).prog = .read 0x08#6 4 :: [] ∧
    (hostDoes [.write 0x00#6 4 0x50000045#32] playing).prog = .write 0x00#6 4 0x50000045#32 :: [] := by decide

/-- CFG-A, and the least parameters in range; TICKFREQ's slot, and the slots next to it and at the end. -/
theorem witness_PowerUpIsCleanEntry :
    (0x18#6).toNat / 4 = 6 ∧ (0x14#6).toNat / 4 ≠ 6 ∧ (0x1C#6).toNat / 4 ≠ 6 ∧ (0x3C#6).toNat / 4 ≠ 6 ∧
    Config.cfgA.inRange = true ∧
    { tickFreq := 1#32, pwmPeriodMax := 1#32, pwmLoopMax := 1#32, base := 0 : Params }.inRange = true := by decide

theorem witness_ToneNeverEndsEarly :
    (∃ t, exec (.tplay 69#16) { State.reset with arg := 1000#32 } = .next t ∧ t.code = .ok) ∧
    playing.seq = .playing ∧ playing.pwmDone = false ∧
    (∀ u ∈ { playing with turns := [.host, .controller, .capability] }.turns.take 2, u = .host ∨ u = .controller) :=
  ⟨⟨_, rfl, rfl⟩, by decide, by decide, by decide⟩

/-- An accepted TPLAY, a completion step, a reset. -/
theorem witness_SequencerMovesOnlyByRule :
    (∃ t, step (issues 0x50000045#32 { State.reset with arg := 1000#32 }) = .next t ∧ .idle ≠ t.seq) ∧
    (∃ t, step { played with turns := [.controller] } = .next t ∧ .playing ≠ t.seq) ∧
    ∃ t, step { playing with turns := [.reset] } = .next t ∧ .playing ≠ t.seq :=
  ⟨⟨_, rfl, by decide⟩, ⟨_, rfl, by decide⟩, ⟨_, rfl, by decide⟩⟩

/-- With turns before and between, and with none. -/
theorem witness_BurstCompletes :
    Inv { playing with turns := [.host] ++ .capability :: ([.controller] ++ .controller :: [.reset]) } ∧
    (∀ u ∈ ([.host] ++ [.controller] : List Turn), u ≠ .reset ∧ u ≠ .resetOverAccess) ∧
    Inv { playing with turns := [] ++ .capability :: ([] ++ .controller :: []) } :=
  ⟨⟨by decide, by decide, by decide, by decide, by decide, by decide⟩, by decide,
    ⟨by decide, by decide, by decide, by decide, by decide, by decide⟩⟩

/-- `play 69, 1000` accepted with 2 polls before and 1 after the capability's step; `play 128, 0` failing. -/
theorem witness_PlayBlocksUntilRelease :
    State.reset.seq = .idle ∧ ticks State.reset.params.tickFreq.toNat (69#16).toNat = 4545 ∧
    (1000#32).toNat * State.reset.params.tickFreq.toNat / (2000 * 4545) = 220 ∧
    (69#16).toNat ≤ 127 ∧ 4545 ≤ State.reset.params.pwmPeriodMax.toNat ∧
    220 ≤ State.reset.params.pwmLoopMax.toNat ∧ 127 < (128#16).toNat ∧
    (hostDoes (playOps 69#16 1000#32) State.reset).prog = playOps 69#16 1000#32 ++ [] ∧
    ([Turn.host, .host, .host, .host, .capability, .host, .controller, .host] : List Turn) =
      [Turn.host, .host] ++ List.replicate 2 .host ++ [.capability] ++ List.replicate 1 .host ++
        [.controller, .host] ++ [] := by decide

theorem witness_StepKeepsInv : Inv playing ∧ ∃ t, step { playing with turns := [.capability] } = .next t :=
  ⟨playing_inv, _, rfl⟩

/-- A narrow read, a misaligned write, an overrun, and a step that raises nothing. -/
theorem witness_FaultsAreExactlyThese :
    (RaisesFault (hostDoes [.read 0x08#6 1] State.reset) (.badAccess 0x08#6 1) ∧
      ∃ t, step (hostDoes [.read 0x08#6 1] State.reset) = .next t ∧ t.fault ≠ none) ∧
    RaisesFault (hostDoes [.write 0x06#6 4 0#32] State.reset) (.badAccess 0x06#6 4) ∧
    (RaisesFault (issues 0x1001005A#32 playing) (.overrun 0x1001005A#32) ∧
      ∃ t, step (issues 0x1001005A#32 playing) = .next t ∧ t.fault ≠ none) ∧
    ∃ t, step (issues 0x1001005A#32 State.reset) = .next t ∧ t.fault = none :=
  ⟨⟨⟨[], [], rfl, .inl rfl, by decide⟩, _, rfl, by decide⟩, ⟨[], [], rfl, .inr ⟨_, rfl⟩, by decide⟩,
    ⟨⟨⟨[], [], rfl, rfl⟩, rfl⟩, _, rfl, by decide⟩, ⟨_, rfl, rfl⟩⟩

/-- 95_test_vectors.md V-R1: a 1-byte read and a misaligned write. -/
theorem witness_BadAccessChangesNothing :
    (hostDoes [.read 0x08#6 1] State.reset).turns = .host :: [] ∧
    (hostDoes [.read 0x08#6 1] State.reset).prog = .read 0x08#6 1 :: [] ∧ 1 ≠ 4 ∧
    (hostDoes [.write 0x06#6 4 0#32] State.reset).prog = .write 0x06#6 4 0#32 :: [] ∧ (0x06#6).toNat % 4 ≠ 0 := by
  decide

theorem witness_OverrunIssuesNothing :
    (issues 0x1001005A#32 playing).turns = .host :: [] ∧
    (issues 0x1001005A#32 playing).prog = .write 0x00#6 4 0x1001005A#32 :: [] ∧
    (issues 0x1001005A#32 playing).seq = .playing := by decide

/-- OVR set by an overrun, cleared by a write and by a reset; CODE changed by a command and by a reset. -/
theorem witness_FlagsHaveOnlyTheirWriters :
    (∃ t, step (issues 0#32 playing) = .next t ∧ playing.ovr = false ∧ t.ovr = true) ∧
    (∃ t, step (hostDoes [.write 0x08#6 4 2#32] { playing with ovr := true }) = .next t ∧ t.ovr = false) ∧
    (∃ t, step { playing with ovr := true, turns := [.reset] } = .next t ∧ t.ovr = false) ∧
    (∃ t, step (issues 0#32 State.reset) = .next t ∧ t.code ≠ .ok) ∧
    ∃ t, step { State.reset with code := .illegal, turns := [.reset] } = .next t ∧ t.code ≠ .illegal :=
  ⟨⟨_, rfl, rfl, rfl⟩, ⟨_, rfl, rfl⟩, ⟨_, rfl, rfl⟩, ⟨_, rfl, by decide⟩, ⟨_, rfl, by decide⟩⟩

theorem witness_ReadsHaveNoSideEffect :
    (hostDoes [.read 0x3C#6 4] State.reset).turns = .host :: [] ∧
    (hostDoes [.read 0x3C#6 4] State.reset).prog = .read 0x3C#6 4 :: [] ∧ (0x3C#6).toNat % 4 = 0 := by decide

/-- A failing command with ERRVAL, one without, and a successful one. -/
theorem witness_FailingCommandsArePrecise :
    TableInRange State.reset ∧ (∃ t, issueCmd 0#32 State.reset = .next t ∧ t.code ≠ .ok) ∧
    (∃ t, issueCmd 0x20010001#32 State.reset = .next t ∧ t.code = .unconfigured) ∧
    ∃ t, issueCmd 0x10010001#32 State.reset = .next t ∧ t.code = .ok :=
  ⟨by decide, ⟨_, rfl, by decide⟩, ⟨_, rfl, rfl⟩, ⟨_, rfl, rfl⟩⟩

theorem witness_ErrvalHoldsRejectedValue :
    (∃ t, issueCmd 0xF0000000#32 State.reset = .next t ∧ t.code = .illegal) ∧
    (∃ t, issueCmd 0x2009000A#32 State.reset = .next t ∧ t.code = .invalidIndex) ∧
    (∃ t, issueCmd 0x10010168#32 State.reset = .next t ∧ t.code = .invalidAngle) ∧
    ∃ t, issueCmd 0x30000080#32 State.reset = .next t ∧ t.code = .invalidKey :=
  ⟨⟨_, rfl, rfl⟩, ⟨_, rfl, rfl⟩, ⟨_, rfl, rfl⟩, ⟨_, rfl, rfl⟩⟩

theorem witness_HistoryIsAppendOnlyAndUnread :
    ∃ t, step (issues 0x20030001#32 (withSlot 2 1#9 State.reset)) = .next t ∧ t.history ≠ [.reset] :=
  ⟨_, rfl, by decide⟩

theorem witness_PwmDoneUnreadWhileIdle :
    State.reset.seq = .idle ∧ State.reset.pwmRun = false ∧
    ∃ t, step (issues 0x50000045#32 { State.reset with arg := 1000#32 }) = .next t ∧ t.seq = .playing :=
  ⟨rfl, rfl, _, rfl, rfl⟩

theorem witness_StatusLayoutAndClear :
    (2 ≤ 2 ∧ 2 ≤ 7) ∧ (2 ≤ 7 ∧ 7 ≤ 7) ∧ (2 ≤ 16 ∧ 16 ≤ 16) ∧
    (hostDoes [.write 0x08#6 4 2#32] State.reset).turns = .host :: [] ∧
    (hostDoes [.write 0x08#6 4 2#32] State.reset).prog = .write 0x08#6 4 2#32 :: [] := by decide

theorem witness_ServoViewLayout :
    State.reset.cfg[(0 : Slot)] = none ∧ (withSlot 7 359#9 State.reset).cfg[(7 : Slot)] = some 359#9 ∧
    (9 ≤ 9 ∧ 9 ≤ 30) ∧ 9 ≤ 30 := by decide

/-- The first and the last read-only slot. -/
theorem witness_ReadOnlySlotsIgnoreWrites :
    (hostDoes [.write 0x0C#6 4 0xFFFFFFFF#32] State.reset).turns = .host :: [] ∧
    (hostDoes [.write 0x0C#6 4 0xFFFFFFFF#32] State.reset).prog = .write 0x0C#6 4 0xFFFFFFFF#32 :: [] ∧
    ((0x0C#6).toNat % 4 = 0 ∧ 0x0C ≤ (0x0C#6).toNat) ∧ ((0x3C#6).toNat % 4 = 0 ∧ 0x0C ≤ (0x3C#6).toNat) := by decide

theorem witness_ArgHoldsDuration :
    (hostDoes [.write 0x04#6 4 1234#32] playing).turns = .host :: [] ∧
    (hostDoes [.write 0x04#6 4 1234#32] playing).prog = .write 0x04#6 4 1234#32 :: [] ∧
    ∃ t, exec (.tper 69#16) playing = .next t := ⟨rfl, rfl, _, rfl⟩

theorem witness_TickfreqIsFixed : ∃ t, step { playing with turns := [.reset] } = .next t := ⟨_, rfl⟩

theorem witness_WaitidlePollsStatus :
    (hostDoes [.waitIdle] State.reset).turns = .host :: [] ∧ (hostDoes [.waitIdle] State.reset).prog = .waitIdle :: [] ∧
    State.reset.seq = .idle ∧ playing.seq = .playing := by decide

theorem witness_RepeatedScfgIsRejected :
    State.reset.seq = .idle ∧
    (hostDoes [.write 0x00#6 4 0x10080167#32, .write 0x00#6 4 0x10080167#32] State.reset).turns = .host :: .host :: [] ∧
    decode 0x10080167#32 = .cmd (.scfg 8#8 359#16) ∧ (8#8).toNat = (7 : Slot).val + 1 ∧ 1 ≤ (359#16).toNat ∧
    (359#16).toNat ≤ 359 ∧ State.reset.cfg[(7 : Slot)] = none := by decide

/-- An acceptance, a completion step, a reset, and a capability step. -/
theorem witness_CapabilityStateHasOnlyItsWriters :
    (∃ t, step (issues 0x50000045#32 { State.reset with arg := 1000#32, pwmDone := true }) = .next t ∧
      t.pwmPeriod ≠ 0#32 ∧ t.pwmClaim = true ∧ t.pwmRun = true ∧ t.pwmDone = false) ∧
    (∃ t, step { played with turns := [.controller] } = .next t ∧ t.pwmClaim = false) ∧
    (∃ t, step { playing with turns := [.reset] } = .next t ∧ t.pwmLoops ≠ 22#32 ∧ t.pwmRun = false) ∧
    ∃ t, step { playing with turns := [.capability] } = .next t ∧ t.pwmDone = true ∧ t.pwmRun = false :=
  ⟨⟨_, rfl, by decide⟩, ⟨_, rfl, rfl⟩, ⟨_, rfl, by decide⟩, ⟨_, rfl, rfl, rfl⟩⟩

/-- The addresses next to a window at 64. -/
theorem witness_BusAddressSelectsOffset :
    63 < { Config.cfgA with base := 64 }.base ∧ { Config.cfgA with base := 64 }.base + 64 ≤ 128 := by decide

end Sys2Proof.Tests
end

/-! ### Proofs of the register-state family (10_state.md): who writes the servo table, and the fixed parameters -/

namespace Sys2Proof.Machine

/-! #### The parameters are fixed (00_scope.md R5) -/

/-- No command writes the parameters. -/
theorem exec_params {i : Instr} {s t : State} (h : exec i s = .next t) : t.params = s.params := by
  rcases exec_effects h with
    ⟨_, _, _, _, _, _, _, _, rfl⟩ | e | ⟨_, _, _, _, _, _, _, _, rfl⟩ | ⟨_, _, _, _, _, _, _, _, ⟨_, rfl⟩ | ⟨_, e⟩⟩
  · exact playTone_params _ _ s
  · rw [e]
  · rfl
  · rfl
  · rw [e]

/-- No issued word writes the parameters. -/
theorem issueCmd_params {w : Word} {s t : State} (h : issueCmd w s = .next t) : t.params = s.params := by
  rcases issueCmd_cases h with ⟨_, rfl⟩ | ⟨_, _, hx⟩
  · rfl
  · exact exec_params hx

/-- No step writes the parameters, a reset neither (10_state.md R29, R40). -/
theorem step_params {s t : State} (h : step s = .next t) : t.params = s.params := by
  rcases step_effects h with ⟨_, _, _, _, _, _, hi⟩ | ⟨_, _, _, _, _, _, rfl⟩ | ⟨_, _, _, _, _, rfl⟩ |
    ⟨_, _, _, _, _, _, _, _, _, rfl⟩ | e | ⟨_, _, _, _, rfl⟩ | ⟨_, _, _, _, rfl⟩ | ⟨_, _, _, rfl⟩
  · exact (issueCmd_params hi).trans rfl
  · rfl
  · rfl
  · rfl
  · rw [e]
  · rfl
  · rfl
  · rfl

/-- What TICKFREQ reads, whatever the rest of the state holds (10_state.md R29). -/
theorem readWindow_tickfreq (s : State) : readWindow 0x18#6 s = s.params.tickFreq := rfl

/-- Settles O55: TICKFREQ reads a parameter and no step writes the parameters. -/
theorem tickfreqIsFixed : Obligations.TickfreqIsFixed := by
  unfold Obligations.TickfreqIsFixed
  intro s t h
  have hp : t.params = s.params := step_params h
  exact ⟨hp, by rw [readWindow_tickfreq, hp], readWindow_tickfreq s⟩

/-! #### Who writes the servo table (10_state.md R33) -/

/-- The step from `s` to `t` is the CMD write of an SCFG that succeeds: it fills the empty slot `i` with `m`, in the
range of 10_state.md R33, and leaves every other slot (40_servo.md R102). -/
structure FillsSlot (s t : State) (i : Slot) (m : MaxAngle) : Prop where
  empty : s.cfg[i] = none
  idle : s.seq = .idle
  code : t.code = .ok
  cfg : t.cfg = s.cfg.set i.val (some m) i.isLt
  range : 1 ≤ m.toNat ∧ m.toNat ≤ Config.angleMax
  issued : ∃ (w : Word) (ch : BitVec 8) (val : BitVec 16),
    WritesCmd s w ∧ decode w = .cmd (.scfg ch val) ∧ ch.toNat = i.val + 1 ∧ m.toNat = val.toNat

/-- A valid angle keeps its value in the 9 bits of a slot (10_state.md R32). -/
theorem toNat_setWidth_of_le_angleMax {val : BitVec 16} (h : val.toNat ≤ 359) :
    (val.setWidth 9 : MaxAngle).toNat = val.toNat := by
  rw [BitVec.toNat_setWidth]
  omega

/-- Everything a command can do to the table: nothing, or the successful SCFG of 40_servo.md R102. -/
theorem exec_cfg_cases {i : Instr} {s t : State} (h : exec i s = .next t) :
    t.cfg = s.cfg ∨
    ∃ (ch : BitVec 8) (val : BitVec 16) (j : Slot), i = .scfg ch val ∧ ch.toNat = j.val + 1 ∧ 1 ≤ val.toNat ∧
      val.toNat ≤ 359 ∧ s.cfg[j] = none ∧ t.code = .ok ∧ t.cfg = s.cfg.set j.val (some (val.setWidth 9)) j.isLt := by
  rcases exec_effects h with
    ⟨_, _, _, _, _, _, _, _, rfl⟩ | e | ⟨ch, val, j, hi, hch, hlo, hhi, hj, rfl⟩ |
    ⟨_, _, _, _, _, _, _, _, ⟨_, rfl⟩ | ⟨_, e⟩⟩
  · exact .inl (playTone_cfg _ _ s)
  · exact .inl (by rw [e])
  · exact .inr ⟨ch, val, j, hi, hch, hlo, hhi, hj, rfl, rfl⟩
  · exact .inl rfl
  · exact .inl (by rw [e])

/-- Everything a step can do to the table: nothing, empty it by a reset, or fill one slot by a successful SCFG. -/
theorem step_cfg_cases {s t : State} (h : step s = .next t) :
    t.cfg = s.cfg ∨ (ResetComes s ∧ ∀ i : Slot, t.cfg[i] = none) ∨ ∃ i m, FillsSlot s t i m := by
  rcases step_effects h with ⟨rest, ops, w, ht, hp, hs, hi⟩ | ⟨_, _, _, _, _, _, rfl⟩ | ⟨_, _, _, _, _, rfl⟩ |
    ⟨_, _, _, _, _, _, _, _, _, rfl⟩ | e | ⟨_, _, _, _, rfl⟩ | ⟨_, _, _, _, rfl⟩ | ⟨rest, _, ht, rfl⟩
  · rcases issueCmd_cases hi with ⟨_, rfl⟩ | ⟨i, hd, hx⟩
    · exact .inl rfl
    · rcases exec_cfg_cases hx with hc | ⟨ch, val, j, rfl, hch, hlo, hhi, hj, hok, hc⟩
      · exact .inl hc
      · have hm := toNat_setWidth_of_le_angleMax hhi
        exact .inr (.inr ⟨j, val.setWidth 9, hj, hs, hok, hc, ⟨hlo.trans_eq hm.symm, hm.trans_le hhi⟩,
          w, ch, val, ⟨rest, ops, ht, hp⟩, hd, hch, hm⟩)
  · exact .inl rfl
  · exact .inl rfl
  · exact .inl rfl
  · exact .inl (by rw [e])
  · exact .inl rfl
  · exact .inl rfl
  · exact .inr (.inl ⟨⟨rest, ht⟩, fun i => by simp⟩)

/-- What a slot holds after a successful SCFG: its own slot the new maximum, any other what it held. -/
theorem FillsSlot.getElem {s t : State} {i : Slot} {m : MaxAngle} (h : FillsSlot s t i m) (j : Slot) :
    t.cfg[j] = if i = j then some m else s.cfg[j] := by
  simp [h.cfg, Vector.getElem_set, Fin.ext_iff]

/-- A step that changes a slot is a reset, which empties it, or a successful SCFG of its channel (10_state.md R33). -/
theorem step_slot_cases {s t : State} (h : step s = .next t) {i : Slot} (hne : t.cfg[i] ≠ s.cfg[i]) :
    (ResetComes s ∧ t.cfg[i] = none) ∨ ∃ m, FillsSlot s t i m ∧ t.cfg[i] = some m := by
  rcases step_cfg_cases h with hc | ⟨hr, hn⟩ | ⟨j, m, hf⟩
  · exact absurd (by rw [hc]) hne
  · exact .inl ⟨hr, hn i⟩
  · have hget := hf.getElem i
    split at hget
    · next hji => subst hji; exact .inr ⟨m, hf, hget⟩
    · exact absurd hget hne

/-- Every step keeps the stored maxima in range (10_state.md R33). -/
theorem step_tableInRange {s t : State} (h : step s = .next t) (hs : TableInRange s) : TableInRange t := by
  intro i m hm
  by_cases hne : t.cfg[i] = s.cfg[i]
  · exact hs i m (hne ▸ hm)
  · rcases step_slot_cases h hne with ⟨_, hn⟩ | ⟨m', hf, hi⟩
    · simp [hn] at hm
    · obtain rfl : m' = m := by simpa [hi] using hm
      exact hf.range

/-- An empty table holds no maximum out of range. -/
theorem tableInRange_of_cleanEntry {s : State} (h : CleanEntry s) : TableInRange s := by
  obtain ⟨_, _, _, _, _, _, _, hcfg, _⟩ := h
  intro i m hm
  simp [hcfg i] at hm

/-- What every step keeps, a run of any length keeps. -/
theorem run_keeps {P : State → Prop} (hstep : ∀ s t, step s = .next t → P s → P t) {k : Nat} {s t : State}
    (h : run k s = .next t) (hs : P s) : P t := by
  induction k generalizing s with
  | zero =>
    obtain rfl : s = t := by simpa using h
    exact hs
  | succ k ih =>
    cases hu : step s with
    | next u => exact ih (run_succ hu k ▸ h) (hstep s u hu hs)
    | fault r => simp [run, hu] at h
    | refused r => simp [run, hu] at h

/-- Settles O15: the range is an invariant of `step`, which CleanEntry has since its table is empty; a changed slot is
read off `step_slot_cases`. -/
theorem tableIsWriteOnce : Obligations.TableIsWriteOnce := by
  unfold Obligations.TableIsWriteOnce
  refine ⟨fun k s t hs hrun => ?_, fun s t h => ⟨step_tableInRange h, fun i hne => ?_⟩⟩
  · exact run_keeps (fun _ _ => step_tableInRange) hrun (tableInRange_of_cleanEntry hs)
  · rcases step_slot_cases h hne with hr | ⟨m, hf, hi⟩
    · exact .inl hr
    · obtain ⟨w, ch, val, ⟨rest, ops, ht, hp⟩, hd, hch, hm⟩ := hf.issued
      exact .inr ⟨hf.empty, hf.idle, hf.code, rest, ops, w, ch, val, m, ht, hp, hd, hch, hm, hi⟩

end Sys2Proof.Machine

/-! ### Proofs of the memory family (20_memory.md): accesses that are not admitted, and admitted reads -/

namespace Sys2Proof.Machine

/-! #### The step of a host access -/

/-- The access rule of 20_memory.md R52, both ways. -/
theorem admitted_eq_true_iff {off : Offset} {size : Nat} :
    admitted off size = true ↔ size = 4 ∧ off.toNat % 4 = 0 :=
  ⟨admitted_true, fun ⟨hsize, hoff⟩ => by simp [admitted, hsize, hoff]⟩

/-- An access of another size, or at an offset that is not aligned, is not admitted (20_memory.md R52). -/
theorem admitted_eq_false_iff {off : Offset} {size : Nat} :
    admitted off size = false ↔ size ≠ 4 ∨ off.toNat % 4 ≠ 0 := by
  rw [← Bool.not_eq_true, admitted_eq_true_iff, not_and_or]

theorem hostRead_of_admitted {off : Offset} {size : Nat} (h : admitted off size = true) (s : State) :
    hostRead off size s = { s with resp := some (.okRead (readWindow off s)) } := if_pos h

theorem hostRead_of_not_admitted {off : Offset} {size : Nat} (h : admitted off size = false) (s : State) :
    hostRead off size s = badAccess off size s := by
  simp [hostRead, h]

theorem hostWrite_of_not_admitted {off : Offset} {size : Nat} (h : admitted off size = false) (w : Word) (s : State) :
    hostWrite off size w s = .next (badAccess off size s) := by
  simp [hostWrite, h]

section
variable {s : State} {rest : List Turn} {ops : List HostOp} {off : Offset} {size : Nat} {w : Word}

/-- The host's turn with a read next in program order (20_memory.md R59). -/
theorem step_read (ht : s.turns = .host :: rest) (hp : s.prog = .read off size :: ops) :
    step s = .next (hostRead off size { s with turns := rest, prog := ops }) := by
  simp [step, ht, takeTurn, hostStep, hp]

/-- The host's turn with a write next in program order (20_memory.md R59). -/
theorem step_write (ht : s.turns = .host :: rest) (hp : s.prog = .write off size w :: ops) :
    step s = hostWrite off size w { s with turns := rest, prog := ops } := by
  simp [step, ht, takeTurn, hostStep, hp]

/-- A read and a write that are not admitted are the same step (20_memory.md R52). -/
theorem step_of_not_admitted (ht : s.turns = .host :: rest)
    (hp : s.prog = .read off size :: ops ∨ s.prog = .write off size w :: ops) (ha : admitted off size = false) :
    step s = .next (badAccess off size { s with turns := rest, prog := ops }) := by
  rcases hp with hr | hw
  · rw [step_read ht hr, hostRead_of_not_admitted ha]
  · rw [step_write ht hw, hostWrite_of_not_admitted ha]

end

/-- Settles O42: the step is `badAccess`, whose only effects are the ERROR response and the fault mark. -/
theorem badAccessChangesNothing : Obligations.BadAccessChangesNothing := by
  unfold Obligations.BadAccessChangesNothing
  intro s rest ops off size w ht hp hbad
  exact ⟨.badAccess off size, fun _ => rfl, step_of_not_admitted ht hp (admitted_eq_false_iff.2 hbad)⟩

/-- What the window reads does not depend on the host's side of the state: its turns, program and last response. -/
theorem readWindow_hostSide (o : Offset) (s : State) (turns : List Turn) (prog : List HostOp) (resp : Option Response) :
    readWindow o { s with turns := turns, prog := prog, resp := resp } = readWindow o s :=
  readWindow_congr rfl (statusWord_congr rfl rfl rfl) rfl rfl rfl rfl rfl o

/-- Settles O45: an admitted read writes the host's side of the state only, which no register shows. -/
theorem readsHaveNoSideEffect : Obligations.ReadsHaveNoSideEffect := by
  unfold Obligations.ReadsHaveNoSideEffect
  intro s rest ops off ht hp hoff
  have hanswer : readWindow off { s with turns := rest, prog := ops } = readWindow off s :=
    readWindow_hostSide off s rest ops s.resp
  refine ⟨_, ?_, rfl, fun o => readWindow_hostSide o s rest ops _⟩
  rw [step_read ht hp, hostRead_of_admitted (admitted_eq_true_iff.2 ⟨rfl, hoff⟩), hanswer]

end Sys2Proof.Machine

/-! ### Proofs of the encoding family (30_encoding.md): the decode function by field numbers, and the assembler -/

namespace Sys2Proof

/-! #### The fields of a word against numbers (30_encoding.md R70) -/

theorem rsvField_eq_zero_iff {w : Word} : rsvField w = 0#4 ↔ w.toNat / 2 ^ 24 % 16 = 0 := by
  rw [← BitVec.toNat_inj, rsvField_toNat]
  rfl

theorem chField_eq_zero_iff {w : Word} : chField w = 0#8 ↔ w.toNat / 2 ^ 16 % 256 = 0 := by
  rw [← BitVec.toNat_inj, chField_toNat]
  rfl

theorem chField_eq_ofNat (w : Word) : chField w = BitVec.ofNat 8 (w.toNat / 2 ^ 16 % 256) := by
  simp [← BitVec.toNat_inj, chField_toNat]

theorem valField_eq_ofNat (w : Word) : valField w = BitVec.ofNat 16 (w.toNat % 2 ^ 16) := by
  rw [← valField_toNat, BitVec.ofNat_toNat, BitVec.setWidth_eq]

/-! #### The decode function, one equation per clause of 30_encoding.md R74 -/

theorem decodeTone_of_ch_zero {w : Word} (hch : w.toNat / 2 ^ 16 % 256 = 0) (mk : BitVec 16 → Instr) :
    decodeTone w mk = .cmd (mk (BitVec.ofNat 16 (w.toNat % 2 ^ 16))) := by
  rw [decodeTone, if_neg (not_not.2 (chField_eq_zero_iff.2 hch)), valField_eq_ofNat]

theorem decodeTone_of_ch_ne_zero {w : Word} (hch : w.toNat / 2 ^ 16 % 256 ≠ 0) (mk : BitVec 16 → Instr) :
    decodeTone w mk = .illegal .toneChannel :=
  if_pos (mt chField_eq_zero_iff.1 hch)

/-- A reserved field is ILLEGAL whatever the opcode (30_encoding.md R76). -/
theorem decode_of_rsv_ne_zero {w : Word} (hrsv : w.toNat / 2 ^ 24 % 16 ≠ 0) :
    decode w = .illegal .reservedField :=
  if_pos (mt rsvField_eq_zero_iff.1 hrsv)

section
variable {w : Word} (hrsv : w.toNat / 2 ^ 24 % 16 = 0)
include hrsv

theorem decode_of_op_one (hop : w.toNat / 2 ^ 28 = 1) :
    decode w = .cmd (.scfg (BitVec.ofNat 8 (w.toNat / 2 ^ 16 % 256)) (BitVec.ofNat 16 (w.toNat % 2 ^ 16))) := by
  rw [decode, if_neg (not_not.2 (rsvField_eq_zero_iff.2 hrsv)), opField_toNat, chField_eq_ofNat, valField_eq_ofNat]
  simp only [hop]

theorem decode_of_op_two (hop : w.toNat / 2 ^ 28 = 2) :
    decode w = .cmd (.sscl (BitVec.ofNat 8 (w.toNat / 2 ^ 16 % 256)) (BitVec.ofNat 16 (w.toNat % 2 ^ 16))) := by
  rw [decode, if_neg (not_not.2 (rsvField_eq_zero_iff.2 hrsv)), opField_toNat, chField_eq_ofNat, valField_eq_ofNat]
  simp only [hop]

theorem decode_of_op_three (hop : w.toNat / 2 ^ 28 = 3) : decode w = decodeTone w .tper := by
  rw [decode, if_neg (not_not.2 (rsvField_eq_zero_iff.2 hrsv)), opField_toNat]
  simp only [hop]

theorem decode_of_op_four (hop : w.toNat / 2 ^ 28 = 4) : decode w = decodeTone w .tlcnt := by
  rw [decode, if_neg (not_not.2 (rsvField_eq_zero_iff.2 hrsv)), opField_toNat]
  simp only [hop]

theorem decode_of_op_five (hop : w.toNat / 2 ^ 28 = 5) : decode w = decodeTone w .tplay := by
  rw [decode, if_neg (not_not.2 (rsvField_eq_zero_iff.2 hrsv)), opField_toNat]
  simp only [hop]

/-- A tone opcode with CH other than 0 is ILLEGAL (30_encoding.md R77). -/
theorem decode_of_toneChannel (hlo : 3 ≤ w.toNat / 2 ^ 28) (hhi : w.toNat / 2 ^ 28 ≤ 5)
    (hch : w.toNat / 2 ^ 16 % 256 ≠ 0) : decode w = .illegal .toneChannel := by
  obtain hop | hop | hop : w.toNat / 2 ^ 28 = 3 ∨ w.toNat / 2 ^ 28 = 4 ∨ w.toNat / 2 ^ 28 = 5 := by omega
  · rw [decode_of_op_three hrsv hop, decodeTone_of_ch_ne_zero hch]
  · rw [decode_of_op_four hrsv hop, decodeTone_of_ch_ne_zero hch]
  · rw [decode_of_op_five hrsv hop, decodeTone_of_ch_ne_zero hch]

/-- The opcodes of no command are ILLEGAL (30_encoding.md R75). -/
theorem decode_of_reservedOpcode (hop : w.toNat / 2 ^ 28 = 0 ∨ 6 ≤ w.toNat / 2 ^ 28) :
    decode w = .illegal .reservedOpcode := by
  rw [← opField_toNat] at hop
  rw [decode, if_neg (not_not.2 (rsvField_eq_zero_iff.2 hrsv))]
  split
  case h_6 => rfl
  all_goals omega

end

/-- Settles O3: one decode equation per clause of 30_encoding.md R74. -/
theorem decodeFollowsOpcodeMap : Obligations.DecodeFollowsOpcodeMap := by
  unfold Obligations.DecodeFollowsOpcodeMap
  rintro w _ _ _ _ rfl rfl rfl rfl
  refine ⟨decode_of_rsv_ne_zero, decode_of_op_one, decode_of_op_two, fun hrsv hop hch => ?tper,
    fun hrsv hop hch => ?tlcnt, fun hrsv hop hch => ?tplay, decode_of_toneChannel, decode_of_reservedOpcode⟩
  case tper => rw [decode_of_op_three hrsv hop, decodeTone_of_ch_zero hch]
  case tlcnt => rw [decode_of_op_four hrsv hop, decodeTone_of_ch_zero hch]
  case tplay => rw [decode_of_op_five hrsv hop, decodeTone_of_ch_zero hch]

/-- The reserved words of 30_encoding.md R75 to R77 are ILLEGAL, each for one of the three reasons. -/
theorem decode_illegal_of_reserved {w : Word}
    (h : w.toNat / 2 ^ 28 = 0 ∨ 6 ≤ w.toNat / 2 ^ 28 ∨ w.toNat / 2 ^ 24 % 16 ≠ 0 ∨
      (3 ≤ w.toNat / 2 ^ 28 ∧ w.toNat / 2 ^ 28 ≤ 5 ∧ w.toNat / 2 ^ 16 % 256 ≠ 0)) :
    ∃ why, decode w = .illegal why := by
  by_cases hrsv : w.toNat / 2 ^ 24 % 16 = 0
  · rcases h with h0 | h6 | hne | ⟨hlo, hhi, hch⟩
    · exact ⟨_, decode_of_reservedOpcode hrsv (.inl h0)⟩
    · exact ⟨_, decode_of_reservedOpcode hrsv (.inr h6)⟩
    · exact absurd hrsv hne
    · exact ⟨_, decode_of_toneChannel hrsv hlo hhi hch⟩
  · exact ⟨_, decode_of_rsv_ne_zero hrsv⟩

end Sys2Proof

namespace Sys2Proof.Machine

theorem writeCmd_of_idle {s : State} (hs : s.seq = .idle) (w : Word) : writeCmd w s = issueCmd w s := by
  simp [writeCmd, hs]

/-- What ILLEGAL does (30_encoding.md R75): ERRVAL the word, CODE ERR_ILLEGAL, nothing else. -/
theorem issueCmd_of_illegal {w : Word} {why : Reject} (hd : decode w = .illegal why) (s : State) :
    issueCmd w s = .next { s with errval := w, code := .illegal } := by
  simp [issueCmd, hd, execIllegal]

/-- Settles O4: a reserved word decodes to ILLEGAL, which an idle CMD write then executes. -/
theorem reservedWordsExecuteIllegal : Obligations.ReservedWordsExecuteIllegal := by
  unfold Obligations.ReservedWordsExecuteIllegal
  intro w s hs hres
  obtain ⟨why, hd⟩ := decode_illegal_of_reserved hres
  rw [writeCmd_of_idle hs, issueCmd_of_illegal hd]

end Sys2Proof.Machine

namespace Sys2Proof

/-! #### The assembler (30_encoding.md R80) -/

/-- OP of the term's word (30_encoding.md R71). -/
def Asm.opNumber : Asm → Nat
  | .scfg _ _ => 0x1
  | .sscl _ _ => 0x2
  | .tper _ => 0x3
  | .tlcnt _ => 0x4
  | .tplay _ => 0x5

/-- The number the term puts in CH: a tone command's is 0 (30_encoding.md R77). -/
def Asm.chNumber : Asm → Nat
  | .scfg ch _ | .sscl ch _ => ch
  | .tper _ | .tlcnt _ | .tplay _ => 0

/-- The number the term puts in VAL or KEY. -/
def Asm.valNumber : Asm → Nat
  | .scfg _ n | .sscl _ n | .tper n | .tlcnt n | .tplay n => n

/-- The assembler's check, on the numbers (30_encoding.md R80). -/
theorem Asm.wellFormed_iff (a : Asm) : a.wellFormed = true ↔ a.chNumber ≤ 255 ∧ a.valNumber ≤ 65535 := by
  cases a <;> simp [wellFormed, chNumber, valNumber, fitsChannelField, fitsValueField]

/-- Operands that fit their fields stand in the packed word unnarrowed (30_encoding.md R70, R72). -/
theorem packFields_ofNat_toNat (op : BitVec 4) {ch val : Nat} (hch : ch ≤ 255) (hval : val ≤ 65535) :
    (packFields op (BitVec.ofNat 8 ch) (BitVec.ofNat 16 val)).toNat = op.toNat * 2 ^ 28 + ch * 2 ^ 16 + val := by
  rw [packFields_toNat, BitVec.toNat_ofNat, BitVec.toNat_ofNat, Nat.mod_eq_of_lt (by omega),
    Nat.mod_eq_of_lt (by omega)]

/-- Every term's word packs its three numbers (30_encoding.md R70, R71). -/
theorem Asm.encode_toInstr (a : Asm) :
    encode a.toInstr =
      packFields (BitVec.ofNat 4 a.opNumber) (BitVec.ofNat 8 a.chNumber) (BitVec.ofNat 16 a.valNumber) := by
  cases a <;> rfl

theorem Asm.opNumber_lt (a : Asm) : a.opNumber < 16 := by
  cases a <;> simp [opNumber]

/-- A term whose operands fit assembles to the command with its word (30_encoding.md R80). -/
theorem Asm.assemble_of_fits (a : Asm) (hch : a.chNumber ≤ 255) (hval : a.valNumber ≤ 65535) :
    ∃ i, a.assemble = some i ∧ (encode i).toNat = a.opNumber * 2 ^ 28 + a.chNumber * 2 ^ 16 + a.valNumber := by
  refine ⟨a.toInstr, if_pos (a.wellFormed_iff.2 ⟨hch, hval⟩), ?_⟩
  rw [a.encode_toInstr, packFields_ofNat_toNat _ hch hval, BitVec.toNat_ofNat, Nat.mod_eq_of_lt a.opNumber_lt]

/-- A tone command's word has no CH part (30_encoding.md R77, R80). -/
theorem Asm.assemble_of_fits_tone (a : Asm) (hch : a.chNumber = 0) (hval : a.valNumber ≤ 65535) :
    ∃ i, a.assemble = some i ∧ (encode i).toNat = a.opNumber * 2 ^ 28 + a.valNumber := by
  simpa [hch] using a.assemble_of_fits (by omega) hval

/-- A term with an operand that does not fit is refused (30_encoding.md R80). -/
theorem Asm.assemble_eq_none (a : Asm) (h : 255 < a.chNumber ∨ 65535 < a.valNumber) : a.assemble = none :=
  if_neg fun hw => by
    obtain ⟨hch, hval⟩ := a.wellFormed_iff.1 hw
    omega

/-- Settles O6: both verdicts of the assembler, at each of the five forms of a term. -/
theorem assemblerFollowsLayout : Obligations.AssemblerFollowsLayout := by
  unfold Obligations.AssemblerFollowsLayout
  intro ch val
  refine ⟨fun hch hval => ?servo, fun hval => ?tone, fun h => ?servoRefused, fun hval => ?toneRefused⟩
  case servo => exact ⟨(Asm.scfg ch val).assemble_of_fits hch hval, (Asm.sscl ch val).assemble_of_fits hch hval⟩
  case tone =>
    exact ⟨(Asm.tper val).assemble_of_fits_tone rfl hval, (Asm.tlcnt val).assemble_of_fits_tone rfl hval,
      (Asm.tplay val).assemble_of_fits_tone rfl hval⟩
  case servoRefused => exact ⟨(Asm.scfg ch val).assemble_eq_none h, (Asm.sscl ch val).assemble_eq_none h⟩
  case toneRefused =>
    exact ⟨(Asm.tper val).assemble_eq_none (.inr hval), (Asm.tlcnt val).assemble_eq_none (.inr hval),
      (Asm.tplay val).assemble_eq_none (.inr hval)⟩

end Sys2Proof

/-! ### Proofs of the servo family (40_servo.md): the scaling law, and what SCFG and SSCL answer -/

namespace Sys2Proof.Machine

/-! #### The scaling law (40_servo.md R105) -/

section
variable {a b m : Nat} (hm : 1 ≤ m)
include hm

theorem scaleAngle_eq_div (a : Nat) : scaleAngle a m = a * 180 / m :=
  floorDiv_of_pos hm

/-- An angle within the maximum scales into the native range (40_servo.md R105, R106). -/
theorem scaleAngle_le_nativeMax (ha : a ≤ m) : scaleAngle a m ≤ 180 := by
  rw [scaleAngle_eq_div hm]
  exact Nat.div_le_of_le_mul (Nat.mul_le_mul_right 180 ha)

theorem scaleAngle_self : scaleAngle m m = 180 := by
  rw [scaleAngle_eq_div hm, Nat.mul_div_cancel_left 180 hm]

theorem scaleAngle_zero : scaleAngle 0 m = 0 := by
  rw [scaleAngle_eq_div hm, Nat.zero_mul, Nat.zero_div]

theorem scaleAngle_mono (hab : a ≤ b) : scaleAngle a m ≤ scaleAngle b m := by
  rw [scaleAngle_eq_div hm, scaleAngle_eq_div hm]
  exact Nat.div_le_div_right (Nat.mul_le_mul_right 180 hab)

theorem scaleAngle_mul_le (a : Nat) : scaleAngle a m * m ≤ a * 180 := by
  rw [scaleAngle_eq_div hm]
  exact Nat.div_mul_le_self _ _

theorem lt_scaleAngle_succ_mul (a : Nat) : a * 180 < (scaleAngle a m + 1) * m := by
  rw [scaleAngle_eq_div hm, Nat.mul_comm (_ + 1)]
  exact Nat.lt_mul_div_succ _ hm

end

/-- Settles O12: a maximum of at least 1 makes the quotient the floor, from which each property follows. -/
theorem scalingLawIsFloor : Obligations.ScalingLawIsFloor := by
  unfold Obligations.ScalingLawIsFloor
  intro a m hm _ ha
  refine ⟨scaleAngle_eq_div hm a, scaleAngle_le_nativeMax hm ha, ?full, ?zero, fun b hab _ => scaleAngle_mono hm hab,
    scaleAngle_mul_le hm a, lt_scaleAngle_succ_mul hm a⟩
  case full => rintro rfl; exact scaleAngle_self hm
  case zero => rintro rfl; exact scaleAngle_zero hm

/-! #### The checks on the operands (40_servo.md R100, R101) -/

theorem zext32_eq_ofNat {n : Nat} (v : BitVec n) : zext32 v = BitVec.ofNat 32 v.toNat :=
  (BitVec.ofNat_toNat 32 v).symm

theorem slotOf_of_invalid {ch : BitVec 8} (h : ch.toNat = 0 ∨ 8 < ch.toNat) : slotOf ch = none :=
  slotOf_eq_none.2 (by omega)

theorem angleValid_eq_true_iff {val : BitVec 16} : angleValid val = true ↔ val.toNat ≤ 359 :=
  decide_eq_true_iff

theorem angleValid_eq_false_iff {val : BitVec 16} : angleValid val = false ↔ 359 < val.toNat := by
  rw [← Bool.not_eq_true, angleValid_eq_true_iff, not_le]

section
variable {s : State} {ch : BitVec 8} {val : BitVec 16} {i : Slot}

/-! #### SCFG, one equation per outcome of 40_servo.md R102 -/

theorem execScfg_of_invalidIndex (hch : slotOf ch = none) :
    execScfg ch val s = .next { s with errval := BitVec.ofNat 32 ch.toNat, code := .invalidIndex } := by
  rw [← zext32_eq_ofNat]
  simp [execScfg, hch]

theorem execScfg_of_invalidAngle (hch : slotOf ch = some i) (hval : 359 < val.toNat) :
    execScfg ch val s = .next { s with errval := BitVec.ofNat 32 val.toNat, code := .invalidAngle } := by
  rw [← zext32_eq_ofNat]
  simp [execScfg, hch, angleValid_eq_false_iff.2 hval]

theorem execScfg_of_zeroMax (hch : slotOf ch = some i) (hval : val.toNat = 0) :
    execScfg ch val s = .next { s with code := .zeroMax } := by
  simp [execScfg, hch, angleValid_eq_true_iff.2 (by omega : val.toNat ≤ 359), hval]

theorem execScfg_of_taken (hch : slotOf ch = some i) (hlo : 1 ≤ val.toNat) (hhi : val.toNat ≤ 359) {m : MaxAngle}
    (hslot : s.cfg[i] = some m) : execScfg ch val s = .next { s with code := .repeatChannel } := by
  have hne : val.toNat ≠ 0 := by omega
  simp [execScfg, hch, angleValid_eq_true_iff.2 hhi, hne, hslot]

theorem execScfg_of_empty (hch : slotOf ch = some i) (hlo : 1 ≤ val.toNat) (hhi : val.toNat ≤ 359)
    (hslot : s.cfg[i] = none) :
    execScfg ch val s =
      .next { s with cfg := s.cfg.set i.val (some (val.setWidth 9)) i.isLt, code := .ok } := by
  have hne : val.toNat ≠ 0 := by omega
  simp [execScfg, hch, angleValid_eq_true_iff.2 hhi, hne, hslot, writeSlot]

/-! #### SSCL, one equation per outcome of 40_servo.md R104 -/

theorem execSscl_of_invalidIndex (hch : slotOf ch = none) :
    execSscl ch val s = .next { s with errval := BitVec.ofNat 32 ch.toNat, code := .invalidIndex } := by
  rw [← zext32_eq_ofNat]
  simp [execSscl, hch]

theorem execSscl_of_invalidAngle (hch : slotOf ch = some i) (hval : 359 < val.toNat) :
    execSscl ch val s = .next { s with errval := BitVec.ofNat 32 val.toNat, code := .invalidAngle } := by
  rw [← zext32_eq_ofNat]
  simp [execSscl, hch, angleValid_eq_false_iff.2 hval]

theorem execSscl_of_unconfigured (hch : slotOf ch = some i) (hval : val.toNat ≤ 359) (hslot : s.cfg[i] = none) :
    execSscl ch val s = .next { s with code := .unconfigured } := by
  simp [execSscl, hch, angleValid_eq_true_iff.2 hval, hslot]

theorem execSscl_of_overangle (hch : slotOf ch = some i) (hval : val.toNat ≤ 359) {m : MaxAngle}
    (hslot : s.cfg[i] = some m) (hover : m.toNat < val.toNat) :
    execSscl ch val s = .next { s with code := .overangle } := by
  simp [execSscl, hch, angleValid_eq_true_iff.2 hval, hslot, hover]

/-- A quotient in the native range passes the internal check of 40_servo.md R106. -/
theorem deliverAngle_of_le {raw : Nat} (hraw : raw ≤ 180) :
    deliverAngle i raw s =
      .next { s with
        result := BitVec.ofNat 32 raw
        history := s.history ++ [.servoOut i (BitVec.ofNat 8 raw)]
        code := .ok } := by
  rw [deliverAngle, if_neg (Nat.not_lt.2 hraw)]
  rfl

theorem execSscl_of_le_max (hch : slotOf ch = some i) (hval : val.toNat ≤ 359) {m : MaxAngle}
    (hslot : s.cfg[i] = some m) (hle : val.toNat ≤ m.toNat) :
    execSscl ch val s = deliverAngle i (scaleAngle val.toNat m.toNat) s := by
  simp [execSscl, hch, angleValid_eq_true_iff.2 hval, hslot, Nat.not_lt.2 hle]

end

/-- Settles O10: one equation of `execScfg` per outcome; the stored 9 bits hold a valid angle unnarrowed. -/
theorem scfgFollowsItsRule : Obligations.ScfgFollowsItsRule := by
  unfold Obligations.ScfgFollowsItsRule
  intro s ch val
  refine ⟨Laws.TableRow.scfg ch val, fun hch => execScfg_of_invalidIndex (slotOf_of_invalid hch), fun i hi => ?_⟩
  have hch : slotOf ch = some i := slotOf_eq_some.2 hi
  refine ⟨execScfg_of_invalidAngle hch, execScfg_of_zeroMax hch, fun hlo hhi hslot => ?taken,
    fun hlo hhi hslot => ⟨val.setWidth 9, toNat_setWidth_of_le_angleMax hhi, execScfg_of_empty hch hlo hhi hslot⟩⟩
  case taken =>
    obtain ⟨m, hm⟩ := Option.ne_none_iff_exists'.1 hslot
    exact execScfg_of_taken hch hlo hhi hm

/-- Settles O11: one equation of `execSscl` per outcome; the scaled angle is at most 180, so it passes the internal
check and stands in the event and in RESULT unnarrowed. -/
theorem ssclFollowsItsRule : Obligations.SsclFollowsItsRule := by
  unfold Obligations.SsclFollowsItsRule
  intro s ch val
  refine ⟨Laws.TableRow.sscl ch val, fun hch => execSscl_of_invalidIndex (slotOf_of_invalid hch), fun i hi => ?_⟩
  have hch : slotOf ch = some i := slotOf_eq_some.2 hi
  refine ⟨execSscl_of_invalidAngle hch, execSscl_of_unconfigured hch,
    fun m hval hslot hm => ⟨execSscl_of_overangle hch hval hslot, fun hle => ?scaled⟩⟩
  case scaled =>
    have hraw : scaleAngle val.toNat m.toNat ≤ 180 := scaleAngle_le_nativeMax hm hle
    have hevent : (BitVec.ofNat 8 (scaleAngle val.toNat m.toNat)).toNat = scaleAngle val.toNat m.toNat :=
      Nat.mod_eq_of_lt (by omega)
    have hresult : (BitVec.ofNat 32 (scaleAngle val.toNat m.toNat)).toNat = scaleAngle val.toNat m.toNat :=
      Nat.mod_eq_of_lt (by omega)
    exact ⟨_, _, hevent.trans (scaleAngle_eq_div hm _), hresult.trans hevent.symm,
      (execSscl_of_le_max hch hval hslot hle).trans (deliverAngle_of_le hraw)⟩

end Sys2Proof.Machine

/-! ### Proofs of the tone family (41_tone.md): the loop count, what the tone commands answer, and the burst -/

namespace Sys2Proof.Machine

/-! #### The period and the loop count (41_tone.md R121, R125) -/

/-- The search stays in its range, whatever the test. -/
theorem leastPassing_lt (test : Nat → Bool) (bits acc : Nat) : leastPassing test bits acc < acc + 2 ^ bits := by
  induction bits generalizing acc with
  | zero => simp [leastPassing]
  | succ b ih =>
    rw [leastPassing, pow_succ]
    split
    · exact (ih acc).trans_le (by omega)
    · exact (ih _).trans_le (by omega)

/-- A period is a 32-bit number, so it fits RESULT (41_tone.md R122). -/
theorem ticks_lt (f k : Nat) : ticks f k < 2 ^ 32 := by
  simpa [ticks] using leastPassing_lt (periodTest f k) 32 0

/-- The divisor of 41_tone.md R125 is not 0 for a period of at least 1. -/
theorem loopCount_eq_div {t : Nat} (ht : t ≠ 0) (d f : Nat) : loopCount d f t = d * f / (2000 * t) :=
  floorDiv_of_pos (Nat.mul_pos (by decide) (Nat.pos_of_ne_zero ht))

/-- Settles O22: the quotient is one floor, and floors of floors are the floor by the product of the divisors. -/
theorem loopCountIsFloor : Obligations.LoopCountIsFloor := by
  unfold Obligations.LoopCountIsFloor
  intro d f t hd hf ht ht'
  have hfloor : loopCount d f t = d * f / (2000 * t) := loopCount_eq_div (Nat.ne_of_gt ht) d f
  refine ⟨hfloor, ?_, ?_, ?_, by omega, ?_⟩
  · rw [hfloor, Nat.div_div_eq_div_mul]
  · rw [hfloor, Nat.div_div_eq_div_mul, Nat.mul_comm t]
  · calc d * f < 2 ^ 32 * 2 ^ 32 := Nat.mul_lt_mul'' hd hf
      _ = 2 ^ 64 := by rw [← pow_add]
  · rw [hfloor]
    exact Nat.div_mul_le_self _ _

/-! #### The check on the key (41_tone.md R120) -/

theorem keyValid_eq_true_iff {key : BitVec 16} : keyValid key = true ↔ key.toNat ≤ 127 :=
  decide_eq_true_iff

theorem keyValid_eq_false_iff {key : BitVec 16} : keyValid key = false ↔ 127 < key.toNat := by
  rw [← Bool.not_eq_true, keyValid_eq_true_iff, not_le]

/-- A number below 2^32 keeps its value in a register. -/
theorem toNat_ofNat_word {n : Nat} (h : n < 2 ^ 32) : (BitVec.ofNat 32 n).toNat = n :=
  Nat.mod_eq_of_lt h

section
variable {s : State} {key : BitVec 16} {t : Nat}

/-! #### TPER, one equation per outcome of 41_tone.md R122 -/

theorem execTper_of_invalidKey (hkey : 127 < key.toNat) :
    execTper key s = .next { s with errval := BitVec.ofNat 32 key.toNat, code := .invalidKey } := by
  rw [← zext32_eq_ofNat]
  simp [execTper, keyValid_eq_false_iff.2 hkey]

theorem execTper_of_validKey (hkey : key.toNat ≤ 127) :
    execTper key s =
      .next { s with result := BitVec.ofNat 32 (ticks s.params.tickFreq.toNat key.toNat), code := .ok } := by
  simp [execTper, keyValid_eq_true_iff.2 hkey]

/-! #### TLCNT, one equation per outcome of 41_tone.md R126 -/

theorem execTlcnt_of_invalidKey (hkey : 127 < key.toNat) :
    execTlcnt key s = .next { s with errval := BitVec.ofNat 32 key.toNat, code := .invalidKey } := by
  rw [← zext32_eq_ofNat]
  simp [execTlcnt, keyValid_eq_false_iff.2 hkey]

theorem execTlcnt_of_validKey (hkey : key.toNat ≤ 127) :
    execTlcnt key s = finishTlcnt (ticks s.params.tickFreq.toNat key.toNat) s := by
  simp [execTlcnt, keyValid_eq_true_iff.2 hkey]

theorem finishTlcnt_of_zero (ht : t = 0) : finishTlcnt t s = .next { s with code := .periodRange } :=
  if_pos ht

theorem finishTlcnt_of_overflow (ht : t ≠ 0)
    (hl : 2 ^ 32 - 1 < s.arg.toNat * s.params.tickFreq.toNat / (2000 * t)) :
    finishTlcnt t s = .next { s with code := .loopRange } := by
  rw [finishTlcnt, if_neg ht, loopCount_eq_div ht, if_pos hl, fail_eq]

theorem finishTlcnt_of_fits (ht : t ≠ 0) (hl : s.arg.toNat * s.params.tickFreq.toNat / (2000 * t) ≤ 2 ^ 32 - 1) :
    finishTlcnt t s =
      .next { s with
        result := BitVec.ofNat 32 t
        loops := BitVec.ofNat 32 (s.arg.toNat * s.params.tickFreq.toNat / (2000 * t))
        code := .ok } := by
  rw [finishTlcnt, if_neg ht, loopCount_eq_div ht, if_neg (Nat.not_lt.2 hl), succeed_eq]

/-! #### TPLAY, one equation per outcome of 41_tone.md R130 -/

theorem execTplay_of_invalidKey (hkey : 127 < key.toNat) :
    execTplay key s = .next { s with errval := BitVec.ofNat 32 key.toNat, code := .invalidKey } := by
  rw [← zext32_eq_ofNat]
  simp [execTplay, keyValid_eq_false_iff.2 hkey]

theorem execTplay_of_validKey (hkey : key.toNat ≤ 127) :
    execTplay key s = finishTplay (ticks s.params.tickFreq.toNat key.toNat) s := by
  simp [execTplay, keyValid_eq_true_iff.2 hkey]

theorem finishTplay_of_periodRange (ht : t = 0 ∨ s.params.pwmPeriodMax.toNat < t) :
    finishTplay t s = .next { s with code := .periodRange } :=
  if_pos ht

/-- The acceptance of 41_tone.md R131 as one update of the state. -/
theorem playTone_eq (r n : Word) (s : State) :
    playTone r n s =
      { s with
        result := r, loops := n, code := .ok, pwmClaim := true, pwmPeriod := r, pwmLoops := n,
        pwmDone := false, pwmRun := true, seq := .playing,
        history := s.history ++ [.pwmClaim, .pwmStart r n] } := by
  rw [List.append_cons]
  rfl

section
variable (ht : t ≠ 0) (ht' : t ≤ s.params.pwmPeriodMax.toNat)
include ht ht'

theorem finishTplay_of_loopRange
    (hl : s.arg.toNat * s.params.tickFreq.toNat / (2000 * t) = 0 ∨
      s.params.pwmLoopMax.toNat < s.arg.toNat * s.params.tickFreq.toNat / (2000 * t)) :
    finishTplay t s = .next { s with code := .loopRange } := by
  rw [finishTplay, if_neg (not_or.2 ⟨ht, Nat.not_lt.2 ht'⟩), loopCount_eq_div ht, if_pos hl, fail_eq]

theorem finishTplay_of_accepted (hl : s.arg.toNat * s.params.tickFreq.toNat / (2000 * t) ≠ 0)
    (hl' : s.arg.toNat * s.params.tickFreq.toNat / (2000 * t) ≤ s.params.pwmLoopMax.toNat) :
    finishTplay t s =
      .next (playTone (BitVec.ofNat 32 t)
        (BitVec.ofNat 32 (s.arg.toNat * s.params.tickFreq.toNat / (2000 * t))) s) := by
  rw [finishTplay, if_neg (not_or.2 ⟨ht, Nat.not_lt.2 ht'⟩), loopCount_eq_div ht,
    if_neg (not_or.2 ⟨hl, Nat.not_lt.2 hl'⟩)]

end

end

/-- Settles O23: one equation of `execTper` per outcome; RESULT holds the period unnarrowed. -/
theorem tperFollowsItsRule : Obligations.TperFollowsItsRule := by
  unfold Obligations.TperFollowsItsRule
  intro s key
  exact ⟨Laws.TableRow.tper key, execTper_of_invalidKey,
    fun hkey => ⟨_, toNat_ofNat_word (ticks_lt _ _), execTper_of_validKey hkey⟩⟩

/-- Settles O24: one equation of TLCNT per outcome; RESULT and LOOPS hold their numbers unnarrowed. -/
theorem tlcntFollowsItsRule : Obligations.TlcntFollowsItsRule := by
  unfold Obligations.TlcntFollowsItsRule
  rintro s key t _ ht rfl
  have hvalid (hkey : key.toNat ≤ 127) : exec (.tlcnt key) s = finishTlcnt t s :=
    ht ▸ execTlcnt_of_validKey hkey
  have hperiod : t < 2 ^ 32 := ht ▸ ticks_lt _ _
  refine ⟨Laws.TableRow.tlcnt key, execTlcnt_of_invalidKey, fun hkey h0 => ?period, fun hkey h0 hl => ?loop,
    fun hkey h0 hl => ⟨_, _, toNat_ofNat_word hperiod, toNat_ofNat_word (by omega), ?ok⟩⟩
  case period => rw [hvalid hkey, finishTlcnt_of_zero h0]
  case loop => rw [hvalid hkey, finishTlcnt_of_overflow h0 hl]
  case ok => rw [hvalid hkey, finishTlcnt_of_fits h0 hl]

/-- Settles O25: one equation of TPLAY per outcome; a period and a loop count within the capability's limits stand
in the registers and in the events unnarrowed. -/
theorem tplayFollowsItsRule : Obligations.TplayFollowsItsRule := by
  unfold Obligations.TplayFollowsItsRule
  rintro s key t _ ht rfl
  have hvalid (hkey : key.toNat ≤ 127) : exec (.tplay key) s = finishTplay t s :=
    ht ▸ execTplay_of_validKey hkey
  have hloopMax := s.params.pwmLoopMax.isLt
  have hperiod : t < 2 ^ 32 := ht ▸ ticks_lt _ _
  refine ⟨Laws.TableRow.tplay key, execTplay_of_invalidKey, fun hkey h => ?period, fun hkey h0 h hl => ?loop,
    fun hkey h0 h hl hl' => ⟨_, _, toNat_ofNat_word hperiod, toNat_ofNat_word (by omega), ?accepted⟩⟩
  case period => rw [hvalid hkey, finishTplay_of_periodRange h]
  case loop => rw [hvalid hkey, finishTplay_of_loopRange h0 h hl]
  case accepted => rw [hvalid hkey, finishTplay_of_accepted h0 h hl hl', playTone_eq]

/-! #### The agent steps (41_tone.md R134, R136) -/

section
variable {s : State} {rest : List Turn}

/-- The capability's turn, where its step is enabled. -/
theorem step_capability (ht : s.turns = .capability :: rest) (hrun : s.pwmRun = true) (hdone : s.pwmDone = false) :
    step s = .next { s with turns := rest, pwmDone := true, pwmRun := false } := by
  simp [step, ht, takeTurn, capabilityStep, hrun, hdone]

/-- The controller's turn, where the completion step is enabled. -/
theorem step_completion (ht : s.turns = .controller :: rest) (hs : s.seq = .playing) (hdone : s.pwmDone = true) :
    step s =
      .next { s with
        turns := rest, pwmClaim := false, seq := .idle, history := s.history ++ [.pwmRelease] } := by
  simp [step, ht, takeTurn, completionStep, hs, hdone, emit]

/-- The controller's turn that finds the flag 0 changes no state of the TSU (41_tone.md R136). -/
theorem step_controller_of_flag_zero (ht : s.turns = .controller :: rest) (hdone : s.pwmDone = false) :
    step s = .next { s with turns := rest } := by
  simp [step, ht, takeTurn, completionStep, hdone]

end

/-- Settles O28: it is the capability's turn with its step enabled. -/
theorem capabilityStepRaisesFlag : Obligations.CapabilityStepRaisesFlag := by
  unfold Obligations.CapabilityStepRaisesFlag
  intro s rest
  exact step_capability

/-- Settles O29: it is the controller's turn with the completion step enabled. -/
theorem completionStepReleases : Obligations.CompletionStepReleases := by
  unfold Obligations.CompletionStepReleases
  intro s rest
  exact step_completion

/-! #### A burst in flight: the host and the controller leave it alone until the flag is raised (41_tone.md R137) -/

/-- What every host access leaves alone while a burst plays. -/
structure KeepsBurst (s t : State) : Prop where
  seq : t.seq = s.seq
  done : t.pwmDone = s.pwmDone
  turns : t.turns = s.turns

/-- No admitted write touches a burst in flight: a CMD write is an overrun (60_exceptions.md R162). -/
theorem writeWindow_of_playing {s : State} (hs : s.seq = .playing) (off : Offset) (w : Word) :
    ∃ t, writeWindow off w s = .next t ∧ KeepsBurst s t := by
  unfold writeWindow
  split
  · exact ⟨overrunCmd w s, by simp [writeCmd, hs], rfl, rfl, rfl⟩
  · exact ⟨{ s with arg := w }, rfl, rfl, rfl, rfl⟩
  · exact ⟨writeStatus w s, rfl, rfl, rfl, rfl⟩
  · exact ⟨s, rfl, rfl, rfl, rfl⟩

theorem hostRead_keepsBurst (off : Offset) (size : Nat) (s : State) : KeepsBurst s (hostRead off size s) := by
  rcases hostRead_cases off size s with ⟨_, e⟩ | ⟨_, e⟩
  · rw [e]; exact ⟨rfl, rfl, rfl⟩
  · rw [e]; exact ⟨rfl, rfl, rfl⟩

/-- Whatever the host does next, a burst in flight goes on. -/
theorem hostStep_of_playing {s : State} (hs : s.seq = .playing) :
    ∃ t, hostStep s = .next t ∧ KeepsBurst s t := by
  unfold hostStep
  split
  · exact ⟨s, rfl, rfl, rfl, rfl⟩
  · next off size ops _ =>
    obtain ⟨hseq, hdone, hturns⟩ := hostRead_keepsBurst off size { s with prog := ops }
    exact ⟨_, rfl, hseq, hdone, hturns⟩
  · next off size w ops _ =>
    unfold hostWrite
    split
    · obtain ⟨t, ht, hseq, hdone, hturns⟩ :=
        writeWindow_of_playing (s := { s with prog := ops, resp := some .okWrite }) hs off w
      exact ⟨t, ht, hseq, hdone, hturns⟩
    · exact ⟨_, rfl, rfl, rfl, rfl⟩
  · exact ⟨_, rfl, by rw [pollIdle_eq]; exact ⟨rfl, rfl, rfl⟩⟩

/-- No turn but the capability's and a reset ends a burst whose flag is 0. -/
theorem step_of_flag_zero {s : State} (hs : s.seq = .playing) (hdone : s.pwmDone = false)
    (ht : ∀ u ∈ s.turns.head?, u = .host ∨ u = .controller) :
    ∃ t, step s = .next t ∧ t.seq = .playing ∧ t.pwmDone = false ∧ t.turns = s.turns.tail := by
  rcases hturns : s.turns with _ | ⟨u, rest⟩
  · exact ⟨s, by simp [step, hturns], hs, hdone, hturns⟩
  · obtain rfl | rfl : u = .host ∨ u = .controller := ht u (by simp [hturns])
    · obtain ⟨t, hstep, hkeeps⟩ := hostStep_of_playing (s := { s with turns := rest }) hs
      exact ⟨t, by simpa [step, hturns, takeTurn] using hstep, hkeeps.seq.trans hs, hkeeps.done.trans hdone,
        hkeeps.turns⟩
    · exact ⟨_, step_controller_of_flag_zero hturns hdone, hs, hdone, rfl⟩

/-- No run of host and controller turns ends a burst whose flag is 0. -/
theorem run_of_flag_zero (k : Nat) {s : State} (hs : s.seq = .playing) (hdone : s.pwmDone = false)
    (ht : ∀ u ∈ s.turns.take k, u = .host ∨ u = .controller) :
    ∃ t, run k s = .next t ∧ t.seq = .playing ∧ t.pwmDone = false := by
  induction k generalizing s with
  | zero => exact ⟨s, rfl, hs, hdone⟩
  | succ k ih =>
    have hhead : (s.turns.take (k + 1)).head? = s.turns.head? := by simp [List.head?_take]
    have htail : (s.turns.take (k + 1)).tail = s.turns.tail.take k := by cases s.turns <;> simp
    obtain ⟨t, hstep, hs', hdone', hturns⟩ :=
      step_of_flag_zero hs hdone fun u hu => ht u (List.mem_of_mem_head? (hhead ▸ hu))
    rw [run_succ hstep]
    exact ih hs' hdone' fun u hu => ht u (List.mem_of_mem_tail (by rwa [htail, ← hturns]))

/-- An accepted TPLAY: CODE OK comes of no other outcome. -/
theorem execTplay_accepted {s t : State} {key : BitVec 16} (h : execTplay key s = .next t) (hok : t.code = .ok) :
    ∃ r n, t = playTone r n s := by
  rcases execTplay_cases h with ⟨_, rfl⟩ | ⟨_, _, _, ⟨_, rfl⟩ | ⟨_, _, _, _, ⟨_, rfl⟩ | ⟨_, _, rfl⟩⟩⟩
  · cases hok
  · cases hok
  · cases hok
  · exact ⟨_, _, rfl⟩

/-- While PLAYING, STATUS reads BUSY 1 (10_state.md R23). -/
theorem statusWord_busy {s : State} (hs : s.seq = .playing) : (statusWord s).getLsbD 0 = true :=
  (busyOfStatus_statusWord s).trans (by simp [busy, hs])

/-- Settles O34: the acceptance clears the flag, and from there every host or controller turn keeps it 0 and the
sequencer PLAYING, by induction on the run. -/
theorem toneNeverEndsEarly : Obligations.ToneNeverEndsEarly := by
  unfold Obligations.ToneNeverEndsEarly
  refine ⟨fun s t key h hok => ?accepted, fun k s hs hdone ht => ?run⟩
  case accepted =>
    obtain ⟨r, n, rfl⟩ := execTplay_accepted h hok
    exact ⟨playTone_seq r n s, playTone_pwmDone r n s⟩
  case run =>
    obtain ⟨t, hrun, hs', hdone'⟩ := run_of_flag_zero k hs hdone ht
    exact ⟨t, hrun, hs', hdone', statusWord_busy hs'⟩

/-! #### The blocking play of a host (41_tone.md R139, 30_encoding.md R82) -/

theorem decode_encode_tplay (key : BitVec 16) : decode (encode (.tplay key)) = .cmd (.tplay key) := by
  simp [encode, decode, decodeTone, rsvField_packFields, opField_packFields, chField_packFields, valField_packFields]

/-- The state after a poll that reads BUSY 1, which `step_poll_playing` says. -/
def polled (turns : List Turn) (a : Option Response) (s : State) : State := { s with turns := turns, resp := a }

/-- The state after the host's write of the duration to ARG (10_state.md R22), which `step_wrArg` says. -/
def argWritten (dur : Word) (turns : List Turn) (prog : List HostOp) (s : State) : State :=
  { s with turns := turns, prog := prog, resp := some .okWrite, arg := dur }

section
variable {s : State} {rest : List Turn} {ops : List HostOp}

theorem step_wrArg {w : Word} (ht : s.turns = .host :: rest) (hp : s.prog = wr argOff w :: ops) :
    step s = .next (argWritten w rest ops s) :=
  step_write ht hp

theorem step_wrCmd_tplay {key : BitVec 16} (hs : s.seq = .idle) (ht : s.turns = .host :: rest)
    (hp : s.prog = wrCmd (.tplay key) :: ops) :
    step s = execTplay key { s with turns := rest, prog := ops, resp := some .okWrite } := by
  have hissue : step s = writeCmd (encode (.tplay key)) { s with turns := rest, prog := ops, resp := some .okWrite } :=
    step_write ht hp
  rw [hissue, writeCmd_of_idle (by exact hs), issueCmd, decode_encode_tplay]
  rfl

theorem step_poll (ht : s.turns = .host :: rest) (hp : s.prog = .waitIdle :: ops) :
    step s = .next (pollIdle { s with turns := rest }) := by
  simp [step, ht, takeTurn, hostStep, hp]

/-- A poll that reads BUSY 0 lets the host go on. -/
theorem step_poll_idle (hs : s.seq = .idle) (ht : s.turns = .host :: rest) (hp : s.prog = .waitIdle :: ops) :
    step s = .next { s with turns := rest, prog := ops, resp := some (.okRead (statusWord s)) } := by
  rw [step_poll ht hp, pollIdle_eq]
  simp [hs, hp, statusWord, busy]

/-- A poll that reads BUSY 1 keeps the host polling. -/
theorem step_poll_playing (hs : s.seq = .playing) (ht : s.turns = .host :: rest) (hp : s.prog = .waitIdle :: ops) :
    step s = .next (polled rest (some (.okRead (statusWord s))) s) := by
  rw [step_poll ht hp, pollIdle_eq]
  simp [hs, polled, statusWord, busy]

/-- Any number of polls while PLAYING changes nothing but the host port's response. -/
theorem run_polls (n : Nat) (hs : s.seq = .playing) (ht : s.turns = List.replicate n .host ++ rest)
    (hp : s.prog = .waitIdle :: ops) : ∃ a, run n s = .next (polled rest a s) := by
  induction n generalizing s with
  | zero =>
    obtain rfl : s.turns = rest := ht
    exact ⟨s.resp, rfl⟩
  | succ n ih =>
    rw [run_succ (step_poll_playing hs (by simpa [List.replicate_succ] using ht) hp)]
    exact ih (s := polled _ _ s) hs rfl hp

/-- From the raised flag on: polls, the completion step, and the poll that lets the host go on. -/
theorem run_polls_completion (m : Nat) (hs : s.seq = .playing) (hdone : s.pwmDone = true)
    (ht : s.turns = List.replicate m .host ++ .controller :: .host :: rest) (hp : s.prog = .waitIdle :: ops) :
    run (m + 2) s =
      .next { s with
        turns := rest, prog := ops, resp := some (.okRead (statusWord { s with seq := .idle })), pwmClaim := false,
        seq := .idle, history := s.history ++ [.pwmRelease] } := by
  obtain ⟨a, hpolls⟩ := run_polls m hs ht hp
  rw [run_add hpolls, run_succ (step_completion (s := polled _ a s) rfl hs hdone)]
  exact run_succ (step_poll_idle rfl rfl (by exact hp)) 0

/-- From acceptance on: polls, the capability's step, and what follows the raised flag. -/
theorem run_burst (n m : Nat) (hs : s.seq = .playing) (hrun : s.pwmRun = true) (hdone : s.pwmDone = false)
    (ht : s.turns = List.replicate n .host ++ .capability :: (List.replicate m .host ++ .controller :: .host :: rest))
    (hp : s.prog = .waitIdle :: ops) :
    run (n + (m + 2 + 1)) s =
      .next { s with
        turns := rest, prog := ops, resp := some (.okRead (statusWord { s with seq := .idle })), pwmDone := true,
        pwmRun := false, pwmClaim := false, seq := .idle, history := s.history ++ [.pwmRelease] } := by
  obtain ⟨a, hpolls⟩ := run_polls n hs ht hp
  rw [run_add hpolls, run_succ (step_capability (s := polled _ a s) rfl hrun hdone)]
  exact run_polls_completion m hs rfl rfl hp

end

/-- A TPLAY that fails a check changes nothing but CODE and ERRVAL (41_tone.md R130). -/
theorem execTplay_of_failing {s : State} {key : BitVec 16} {t l : Nat}
    (ht : t = ticks s.params.tickFreq.toNat key.toNat) (hl : l = s.arg.toNat * s.params.tickFreq.toNat / (2000 * t))
    (h : 127 < key.toNat ∨ t = 0 ∨ s.params.pwmPeriodMax.toNat < t ∨ l = 0 ∨ s.params.pwmLoopMax.toNat < l) :
    ∃ v c, c ≠ .ok ∧ execTplay key s = .next { s with errval := v, code := c } := by
  subst hl
  by_cases hkey : key.toNat ≤ 127
  · rw [execTplay_of_validKey hkey, ← ht]
    by_cases hperiod : t = 0 ∨ s.params.pwmPeriodMax.toNat < t
    · exact ⟨_, _, by simp, finishTplay_of_periodRange hperiod⟩
    · obtain ⟨h0, hmax⟩ := not_or.1 hperiod
      exact ⟨_, _, by simp, finishTplay_of_loopRange h0 (Nat.le_of_not_lt hmax) (by omega)⟩
  · exact ⟨_, _, by simp, execTplay_of_invalidKey (Nat.lt_of_not_le hkey)⟩

/-- A TPLAY that passes its checks is accepted (41_tone.md R130). -/
theorem execTplay_of_accepted {s : State} {key : BitVec 16} {t : Nat} (hkey : key.toNat ≤ 127)
    (ht : t = ticks s.params.tickFreq.toNat key.toNat) (h0 : t ≠ 0) (hperiod : t ≤ s.params.pwmPeriodMax.toNat)
    (hl0 : s.arg.toNat * s.params.tickFreq.toNat / (2000 * t) ≠ 0)
    (hloop : s.arg.toNat * s.params.tickFreq.toNat / (2000 * t) ≤ s.params.pwmLoopMax.toNat) :
    execTplay key s =
      .next (playTone (BitVec.ofNat 32 t)
        (BitVec.ofNat 32 (s.arg.toNat * s.params.tickFreq.toNat / (2000 * t))) s) := by
  rw [execTplay_of_validKey hkey, ← ht, finishTplay_of_accepted h0 hperiod hl0 hloop]

/-- The first two accesses of a play: ARG is written, then the TPLAY runs on the new duration. -/
theorem run_play {s u : State} {key : BitVec 16} {dur : Word} {ops : List HostOp} {rest : List Turn} (k : Nat)
    (hs : s.seq = .idle) (hp : s.prog = playOps key dur ++ ops) (ht : s.turns = .host :: .host :: rest)
    (hu : execTplay key (argWritten dur rest (.waitIdle :: ops) s) = .next u) : run (k + 1 + 1) s = run k u := by
  have hcmd : step (argWritten dur (.host :: rest) (wrCmd (.tplay key) :: .waitIdle :: ops) s) = .next u :=
    Eq.trans (step_wrCmd_tplay hs rfl rfl) hu
  exact (run_succ (step_wrArg ht hp) (k + 1)).trans (run_succ hcmd k)

/-- Settles O37: the two writes bring the host to its polls, PLAYING where the checks pass and IDLE where one fails;
then `run_burst`, or the first poll, says the rest. -/
theorem playBlocksUntilRelease : Obligations.PlayBlocksUntilRelease := by
  unfold Obligations.PlayBlocksUntilRelease
  rintro s key dur t _ n m ops after hs hp ht rfl
  refine ⟨fun hkey h0 hperiod hl0 hloop hturns => ?accepted, fun hfail hturns => ?failing⟩
  case accepted =>
    have hloopMax := s.params.pwmLoopMax.isLt
    have hword : t < 2 ^ 32 := ht ▸ ticks_lt _ _
    have hturns' : s.turns = .host :: .host :: (List.replicate n .host ++ .capability ::
        (List.replicate m .host ++ .controller :: .host :: after)) := by simpa using hturns
    have hplay := run_play (n + (m + 2 + 1)) hs hp hturns' (execTplay_of_accepted hkey ht h0 hperiod hl0 hloop)
    rw [show n + m + 5 = n + (m + 2 + 1) + 1 + 1 by omega]
    refine ⟨_, _, _, hplay.trans (run_burst n m rfl rfl rfl rfl rfl), toNat_ofNat_word hword,
      toNat_ofNat_word (by omega), rfl, rfl, rfl, rfl, rfl, rfl, rfl, rfl, rfl, ?_⟩
    simp [argWritten]
  case failing =>
    obtain ⟨v, c, hc, hexec⟩ :=
      execTplay_of_failing (s := argWritten dur (.host :: after) (.waitIdle :: ops) s) ht rfl hfail
    refine ⟨_, (run_play 1 hs hp hturns hexec).trans (run_succ (step_poll_idle (by exact hs) rfl rfl) 0), ?_⟩
    exact ⟨rfl, rfl, hs, hc, rfl, rfl, rfl, rfl, rfl, rfl⟩

end Sys2Proof.Machine

/-! ### Proofs of the family of the remaining statements: the encoding, both ways, and the step that runs a command -/

namespace Sys2Proof

/-! #### A command and its word (30_encoding.md R70, R71) -/

/-- OP of a command's word. -/
def Instr.op : Instr → BitVec 4
  | .scfg _ _ => 0x1#4
  | .sscl _ _ => 0x2#4
  | .tper _ => 0x3#4
  | .tlcnt _ => 0x4#4
  | .tplay _ => 0x5#4

/-- CH of a command's word: a tone command's is 0 (30_encoding.md R77). -/
def Instr.ch : Instr → BitVec 8
  | .scfg ch _ | .sscl ch _ => ch
  | .tper _ | .tlcnt _ | .tplay _ => 0#8

/-- VAL or KEY of a command's word. -/
def Instr.val : Instr → BitVec 16
  | .scfg _ v | .sscl _ v | .tper v | .tlcnt v | .tplay v => v

/-- Every command's word packs its three fields. -/
theorem encode_eq_packFields (i : Instr) : encode i = packFields i.op i.ch i.val := by
  cases i <;> rfl

theorem opField_encode (i : Instr) : opField (encode i) = i.op := by
  rw [encode_eq_packFields, opField_packFields]

theorem rsvField_encode (i : Instr) : rsvField (encode i) = 0#4 := by
  rw [encode_eq_packFields, rsvField_packFields]

theorem chField_encode (i : Instr) : chField (encode i) = i.ch := by
  rw [encode_eq_packFields, chField_packFields]

theorem valField_encode (i : Instr) : valField (encode i) = i.val := by
  rw [encode_eq_packFields, valField_packFields]

/-- Settles O1: the decoder reads the packed fields back, and the opcode selects the command's own arm. -/
theorem decodeInvertsEncode : Obligations.DecodeInvertsEncode := by
  unfold Obligations.DecodeInvertsEncode
  intro i
  have hch := chField_encode i
  rw [decode, if_neg (not_not.2 (rsvField_encode i)), opField_encode, valField_encode]
  cases i with
  | scfg ch val => simp only [hch]; rfl
  | sscl ch val => simp only [hch]; rfl
  | tper key => exact (if_neg (not_not.2 hch)).trans (by rw [valField_encode]; rfl)
  | tlcnt key => exact (if_neg (not_not.2 hch)).trans (by rw [valField_encode]; rfl)
  | tplay key => exact (if_neg (not_not.2 hch)).trans (by rw [valField_encode]; rfl)

/-- A word is the packing of its fields, where its reserved field is 0 (30_encoding.md R70). -/
theorem packFields_fields {w : Word} (hrsv : rsvField w = 0#4) :
    packFields (opField w) (chField w) (valField w) = w := by
  have hrsv' := rsvField_eq_zero_iff.1 hrsv
  apply BitVec.eq_of_toNat_eq
  rw [packFields_toNat, opField_toNat, chField_toNat, valField_toNat]
  omega

/-- Everything a tone decode to a command says of the word (30_encoding.md R77). -/
theorem decodeTone_eq_cmd {w : Word} {mk : BitVec 16 → Instr} {i : Instr} (h : decodeTone w mk = .cmd i) :
    chField w = 0#8 ∧ i = mk (valField w) := by
  unfold decodeTone at h
  split at h
  · cases h
  · next hch => exact ⟨not_not.1 hch, by simpa using h.symm⟩

/-- The fields of a word that decodes to a command are the command's (30_encoding.md R74). -/
theorem fields_of_decode {w : Word} {i : Instr} (h : decode w = .cmd i) :
    rsvField w = 0#4 ∧ opField w = i.op ∧ chField w = i.ch ∧ valField w = i.val := by
  unfold decode at h
  split at h
  · cases h
  · next hrsv =>
    refine ⟨not_not.1 hrsv, ?_⟩
    split at h
    · next hop => cases h; exact ⟨BitVec.eq_of_toNat_eq hop, rfl, rfl⟩
    · next hop => cases h; exact ⟨BitVec.eq_of_toNat_eq hop, rfl, rfl⟩
    · next hop => obtain ⟨hch, rfl⟩ := decodeTone_eq_cmd h; exact ⟨BitVec.eq_of_toNat_eq hop, hch, rfl⟩
    · next hop => obtain ⟨hch, rfl⟩ := decodeTone_eq_cmd h; exact ⟨BitVec.eq_of_toNat_eq hop, hch, rfl⟩
    · next hop => obtain ⟨hch, rfl⟩ := decodeTone_eq_cmd h; exact ⟨BitVec.eq_of_toNat_eq hop, hch, rfl⟩
    · cases h

/-- Settles O2: the word and the command have the same three fields, and the reserved one is 0. -/
theorem encodeInvertsDecode : Obligations.EncodeInvertsDecode := by
  unfold Obligations.EncodeInvertsDecode
  intro w i h
  obtain ⟨hrsv, hop, hch, hval⟩ := fields_of_decode h
  rw [encode_eq_packFields, ← hop, ← hch, ← hval, packFields_fields hrsv]

/-- Settles O5: each word is a numeral, so the decoder computes its verdict. -/
theorem specWordsDecode : Obligations.SpecWordsDecode := by
  unfold Obligations.SpecWordsDecode
  decide

/-! #### The byte lanes of a word (20_memory.md R51) -/

theorem wordOfLanes_toNat (l0 l1 l2 l3 : Byte) :
    (wordOfLanes l0 l1 l2 l3).toNat = l0.toNat + l1.toNat * 2 ^ 8 + l2.toNat * 2 ^ 16 + l3.toNat * 2 ^ 24 := by
  simp only [wordOfLanes, BitVec.toNat_append]
  rw [← Nat.shiftLeft_add_eq_or_of_lt l2.isLt, ← Nat.shiftLeft_add_eq_or_of_lt l1.isLt,
    ← Nat.shiftLeft_add_eq_or_of_lt l0.isLt]
  simp only [Nat.shiftLeft_eq]
  omega

/-- The lanes of a word carry the word. -/
theorem wordOfLanes_lanesOf (w : Word) :
    wordOfLanes (w.extractLsb' 0 8) (w.extractLsb' 8 8) (w.extractLsb' 16 8) (w.extractLsb' 24 8) = w := by
  have hw := w.isLt
  apply BitVec.eq_of_toNat_eq
  simp only [wordOfLanes_toNat, BitVec.extractLsb'_toNat, Nat.shiftRight_eq_div_pow]
  omega

/-- Settles O7: a word is its four lanes at their weights, and no other number of lanes is a word. -/
theorem lanesAreLittleEndian : Obligations.LanesAreLittleEndian := by
  unfold Obligations.LanesAreLittleEndian
  refine ⟨wordOfLanes_toNat, fun w => ?word, fun bs hlen => ?other⟩
  case word => rw [lanesOf, decodeLanes, wordOfLanes_lanesOf]
  case other =>
    unfold decodeLanes
    split
    · exact absurd rfl hlen
    · rfl

/-- A word numbered as the opcode table numbers it is itself. -/
theorem tableWord_toNat (w : Word) : tableWord 32 w.toNat = w := by
  rw [tableWord, Nat.mod_eq_of_lt w.isLt, BitVec.ofNat_toNat, BitVec.setWidth_eq]

end Sys2Proof

namespace Sys2Proof.Machine

/-! #### The step that runs a command (10_state.md R21) -/

theorem issueCmd_of_cmd {w : Word} {i : Instr} (hd : decode w = .cmd i) (s : State) : issueCmd w s = exec i s := by
  simp [issueCmd, hd]

section
variable {s : State} {rest : List Turn} {ops : List HostOp} {w : Word}

/-- The host's turn with a write to CMD next: the busy check, then the issue (60_exceptions.md R163). -/
theorem step_writeCmd (ht : s.turns = .host :: rest) (hp : s.prog = .write 0x00#6 4 w :: ops) :
    step s = writeCmd w { s with turns := rest, prog := ops, resp := some .okWrite } :=
  step_write ht hp

theorem step_issueCmd (ht : s.turns = .host :: rest) (hp : s.prog = .write 0x00#6 4 w :: ops) (hs : s.seq = .idle) :
    step s = issueCmd w { s with turns := rest, prog := ops, resp := some .okWrite } :=
  (step_writeCmd ht hp).trans (writeCmd_of_idle (by exact hs) w)

theorem step_overrun (ht : s.turns = .host :: rest) (hp : s.prog = .write 0x00#6 4 w :: ops) (hs : s.seq = .playing) :
    step s = .next (overrunCmd w { s with turns := rest, prog := ops, resp := some .okWrite }) := by
  rw [step_writeCmd ht hp, writeCmd]
  simp only [hs]

/-- The step of a CMD write while IDLE of a word that decodes to a command. -/
theorem step_exec {i : Instr} (ht : s.turns = .host :: rest) (hp : s.prog = .write 0x00#6 4 w :: ops)
    (hs : s.seq = .idle) (hd : decode w = .cmd i) :
    step s = exec i { s with turns := rest, prog := ops, resp := some .okWrite } :=
  (step_issueCmd ht hp hs).trans (issueCmd_of_cmd hd _)

end

/-- Settles O8: it is the step of a CMD write while IDLE. -/
theorem stepRunsDecodedCommand : Obligations.StepRunsDecodedCommand := by
  unfold Obligations.StepRunsDecodedCommand
  intro s w i ops rest
  exact step_exec

theorem idled_of_idle {s : State} (hs : s.seq = .idle) : s.idled = s := by
  simp [State.idled, hs]

theorem idled_seq (s : State) : s.idled.seq = .idle := by
  unfold State.idled
  split
  · assumption
  · rfl

/-- The sequencer alone is brought to IDLE: the host's side stays (log entry 7). -/
theorem idled_hostSide (s : State) : s.idled.turns = s.turns ∧ s.idled.prog = s.prog := by
  unfold State.idled
  split <;> exact ⟨rfl, rfl⟩

/-- Settles O9: the placed word is the next CMD write of a state that is IDLE, so the step runs it. -/
theorem fetchWordRunsDecodedCommand : Obligations.FetchWordRunsDecodedCommand := by
  unfold Obligations.FetchWordRunsDecodedCommand
  intro s w i hd
  refine ⟨?_, idled_of_idle, idled_seq s⟩
  obtain ⟨hturns, hprog⟩ := idled_hostSide s
  have hstep := step_exec (s := s.withFetchWord 32 w.toNat) rfl rfl (by exact idled_seq s)
    ((tableWord_toNat w).symm ▸ hd)
  rw [hstep, State.withFetchWord, ← hturns, ← hprog]

end Sys2Proof.Machine

/-! ### Proofs of the family of the remaining statements: the period function (41_tone.md R121 to R123) -/

namespace Sys2Proof.Machine

/-! #### The period as the least candidate of the integer test -/

/-- The test passes for a smaller tick frequency where it does for a larger one. -/
theorem periodTest_anti_freq {f g : Nat} (h : f ≤ g) {k n : Nat} (hg : periodTest g k n = true) :
    periodTest f k n = true := by
  rw [periodTest_iff] at *
  exact lt_of_le_of_lt (by gcongr) hg

/-- The test passes for a higher key where it does for a lower one. -/
theorem periodTest_mono_key {k l : Nat} (h : k ≤ l) {f n : Nat} (hk : periodTest f k n = true) :
    periodTest f l n = true := by
  rw [periodTest_iff] at *
  calc (2 * f) ^ 12 * 2 ^ (69 - l) ≤ (2 * f) ^ 12 * 2 ^ (69 - k) := by gcongr; decide
    _ < (440 * (2 * n + 1)) ^ 12 * 2 ^ (k - 69) := hk
    _ ≤ (440 * (2 * n + 1)) ^ 12 * 2 ^ (l - 69) := by gcongr; decide

section
variable {f : Nat} (hf : f < 2 ^ 32)
include hf

/-- The largest period of any key is the one of the largest tick frequency at key 0 (41_tone.md R122). -/
theorem periodTest_largest (k : Nat) : periodTest f k 525326924 = true :=
  periodTest_mono_key (Nat.zero_le k) (periodTest_anti_freq (Nat.le_pred_of_lt hf) (by decide))

/-- The search finds the least candidate that passes, in the range of the tick frequency (41_tone.md R121). -/
theorem ticks_spec (k : Nat) :
    periodTest f k (ticks f k) = true ∧ ∀ n, n < ticks f k → periodTest f k n = false := by
  have hlast : periodTest f k (0 + 2 ^ 32 - 1) = true := periodTest_mono f k _ _ (by decide) (periodTest_largest hf k)
  obtain ⟨_, _, hpass, hleast⟩ := leastPassing_spec (periodTest_mono f k) 32 0 hlast
  exact ⟨hpass, fun n => hleast n (Nat.zero_le n)⟩

/-- The candidates that pass are those from the period on. -/
theorem ticks_le_iff {k n : Nat} : ticks f k ≤ n ↔ periodTest f k n = true := by
  obtain ⟨hpass, hleast⟩ := ticks_spec hf k
  refine ⟨fun h => periodTest_mono f k _ _ h hpass, fun h => ?_⟩
  by_contra hlt
  simp [hleast n (Nat.lt_of_not_le hlt)] at h

end

/-- Settles O16: the search's result passes and nothing below it does, with the test's numbers written out. -/
theorem ticksIsLeastPassing : Obligations.TicksIsLeastPassing := by
  unfold Obligations.TicksIsLeastPassing
  intro f k hf _
  obtain ⟨hpass, hleast⟩ := ticks_spec hf k
  exact ⟨(periodTest_iff _ _ _).1 hpass, fun n hn => (periodTest_eq_false_iff _ _ _).1 (hleast n hn)⟩

/-- Settles O19: the largest frequency and the lowest key bound every other, and there one less does not pass. -/
theorem ticksFitsWord : Obligations.TicksFitsWord := by
  unfold Obligations.TicksFitsWord
  refine ⟨fun f k hf _ => (ticks_le_iff hf).2 (periodTest_largest hf k), le_antisymm ?upper ?lower⟩
  case upper => exact (ticks_le_iff (by decide)).2 (by decide)
  case lower =>
    have hfails : ¬ticks (2 ^ 32 - 1) 0 ≤ 525326923 := mt (ticks_le_iff (by decide)).1 (by decide)
    omega

/-! #### The test over the real frequency `440 * 2^((k - 69) / 12)` (41_tone.md R121) -/

/-- `freq(k)` (41_tone.md R121). -/
noncomputable def freq (k : Nat) : ℝ := 440 * (2 : ℝ) ^ (((k : ℝ) - 69) / 12)

theorem freq_pos (k : Nat) : 0 < freq k := by
  unfold freq
  positivity

/-- The twelfth power of the frequency is the rational number of the integer test. -/
theorem freq_pow (k : Nat) : freq k ^ 12 * 2 ^ (69 - k) = 440 ^ 12 * 2 ^ (k - 69) := by
  have hroot : ((2 : ℝ) ^ (((k : ℝ) - 69) / 12)) ^ 12 = (2 : ℝ) ^ ((k : ℤ) - 69) := by
    rw [← Real.rpow_natCast, ← Real.rpow_mul (by norm_num), ← Real.rpow_intCast]
    congr 1
    push_cast
    ring
  have hexp : (2 : ℝ) ^ ((k : ℤ) - 69) * 2 ^ (69 - k) = 2 ^ (k - 69) := by
    rw [← zpow_natCast, ← zpow_natCast, ← zpow_add₀ (by norm_num)]
    congr 1
    omega
  rw [freq, mul_pow, hroot, mul_assoc, hexp]

/-- An octave doubles the frequency. -/
theorem freq_octave (k : Nat) : freq (k + 12) = 2 * freq k := by
  have hexp : ((k + 12 : Nat) - 69 : ℝ) / 12 = ((k : ℝ) - 69) / 12 + 1 := by push_cast; ring
  rw [freq, freq, hexp, Real.rpow_add (by norm_num), Real.rpow_one]
  ring

theorem periodLhs_cast (f k : Nat) : (periodLhs f k : ℝ) = 2 ^ (69 - k) * (2 * f) ^ 12 := by
  simp only [periodLhs, Nat.cast_mul, Nat.cast_pow, Nat.cast_ofNat]
  ring

theorem periodRhs_cast (k n : Nat) : (periodRhs k n : ℝ) = 2 ^ (69 - k) * (freq k * (2 * n + 1)) ^ 12 := by
  have hpow := freq_pow k
  simp only [periodRhs, Nat.cast_mul, Nat.cast_pow, Nat.cast_add, Nat.cast_one, Nat.cast_ofNat]
  linear_combination (2 * (n : ℝ) + 1) ^ 12 * (-hpow)

/-- The integer test compares the quotient `F / freq(k)` with `n + 1/2`. -/
theorem periodLhs_lt_periodRhs_iff (f k n : Nat) :
    periodLhs f k < periodRhs k n ↔ (f : ℝ) / freq k < n + 1 / 2 := by
  have hfreq := freq_pos k
  rw [← Nat.cast_lt (α := ℝ), periodLhs_cast, periodRhs_cast, mul_lt_mul_iff_right₀ (by positivity),
    pow_lt_pow_iff_left₀ (by positivity) (by positivity) (by decide), div_lt_iff₀ hfreq]
  constructor <;> intro h <;> linarith

/-- A tie of the integer test is a quotient of `n + 1/2`. -/
theorem periodLhs_eq_periodRhs_iff (f k n : Nat) :
    periodLhs f k = periodRhs k n ↔ (f : ℝ) / freq k = n + 1 / 2 := by
  have hfreq := freq_pos k
  rw [← Nat.cast_inj (R := ℝ), periodLhs_cast, periodRhs_cast, mul_right_inj' (by positivity),
    pow_left_inj₀ (by positivity) (by positivity) (by decide), div_eq_iff hfreq.ne']
  constructor <;> intro h <;> linarith

section
variable {f : Nat} (hf : f < 2 ^ 32) (k : Nat)
include hf

/-- The period is at most `n` exactly where the quotient is below `n + 1/2`. -/
theorem ticks_le_iff_quotient {n : Nat} : ticks f k ≤ n ↔ (f : ℝ) / freq k < n + 1 / 2 := by
  rw [ticks_le_iff hf, periodTest, decide_eq_true_iff, periodLhs_lt_periodRhs_iff]

theorem quotient_lt_ticks : (f : ℝ) / freq k < ticks f k + 1 / 2 :=
  (ticks_le_iff_quotient hf k).1 le_rfl

/-- A period is at most half a tick above the quotient. -/
theorem ticks_le_quotient : (ticks f k : ℝ) ≤ (f : ℝ) / freq k + 1 / 2 := by
  rcases ht : ticks f k with _ | n
  · have := div_nonneg f.cast_nonneg (freq_pos k).le
    push_cast
    linarith
  · have hn : ¬ticks f k ≤ n := by omega
    rw [ticks_le_iff_quotient hf, not_lt] at hn
    push_cast
    linarith

end

/-- Settles O17: the period is within half a tick of the quotient, the half above excluded. -/
theorem ticksIsRoundedQuotient : Obligations.TicksIsRoundedQuotient := by
  unfold Obligations.TicksIsRoundedQuotient
  intro f k hf _
  have hlt := quotient_lt_ticks hf k
  have hfloor : ⌊(f : ℝ) / freq k + 1 / 2⌋ = (ticks f k : ℤ) :=
    Int.floor_eq_iff.2 ⟨by exact_mod_cast ticks_le_quotient hf k, by push_cast; linarith⟩
  exact hfloor.symm

/-! #### Ties (41_tone.md R121) -/

/-- In a tie the exponents of 2 on both sides agree, and all but `69 - k` are multiples of 12. -/
theorem twelve_dvd_of_tie {f k n : Nat} (hf : 1 ≤ f) (h : periodLhs f k = periodRhs k n) :
    (12 : ℤ) ∣ 69 - (k : ℤ) := by
  have hval := congrArg (padicValNat 2) h
  simp only [periodLhs, periodRhs] at hval
  rw [padicValNat.mul (by positivity) (by positivity), padicValNat.mul (by positivity) (by positivity),
    padicValNat.prime_pow, padicValNat.prime_pow, padicValNat.pow, padicValNat.pow] at hval
  simp only [Config.semitones, Config.a4Key] at hval
  omega

/-- A tie is rounded upward: its candidate does not pass, the next one does. -/
theorem ticks_of_tie {f k n : Nat} (hf : f < 2 ^ 32) (h : (f : ℝ) / freq k = n + 1 / 2) : ticks f k = n + 1 := by
  have hfails : ¬ticks f k ≤ n := mt (ticks_le_iff_quotient hf k).1 (by rw [h]; exact lt_irrefl _)
  have hpasses : ticks f k ≤ n + 1 := (ticks_le_iff_quotient hf k).2 (by rw [h]; push_cast; linarith)
  omega

/-- Settles O18: the integer tie is the real one; twelfth powers on both sides leave only whole octaves. -/
theorem tiesOnlyOctavesFromA4 : Obligations.TiesOnlyOctavesFromA4 := by
  unfold Obligations.TiesOnlyOctavesFromA4
  intro f k n hf1 hf _
  have htie : periodLhs f k = periodRhs k n ↔ (f : ℝ) / freq k = n + 1 / 2 := periodLhs_eq_periodRhs_iff f k n
  exact ⟨htie, fun h => ⟨twelve_dvd_of_tie hf1 h, ticks_of_tie hf (htie.1 h)⟩⟩

/-! #### How the period falls with the key (41_tone.md R123) -/

section
variable {f : Nat} (hf : f < 2 ^ 32)
include hf

theorem ticks_anti_key {k l : Nat} (h : k ≤ l) : ticks f l ≤ ticks f k :=
  (ticks_le_iff hf).2 (periodTest_mono_key h (ticks_spec hf k).1)

/-- At A4 the test is that of a rounded division by 440. -/
theorem ticks_a4 : ticks f 69 = (f + 220) / 440 := by
  refine eq_of_forall_ge_iff fun n => ?_
  have hroot : (2 * f) ^ 12 < (440 * (2 * n + 1)) ^ 12 ↔ 2 * f < 440 * (2 * n + 1) :=
    Nat.pow_lt_pow_iff_left (by decide)
  have htest : periodTest f 69 n = true ↔ (2 * f) ^ 12 < (440 * (2 * n + 1)) ^ 12 := by
    simpa using periodTest_iff f 69 n
  rw [ticks_le_iff hf, htest, hroot]
  omega

/-- Twelve keys up, the quotient is halved, and the period with it but for the rounding. -/
theorem ticks_octave (k : Nat) : 2 * ticks f (k + 12) ≤ ticks f k + 2 ∧ ticks f k ≤ 2 * ticks f (k + 12) + 2 := by
  have hhalf : (f : ℝ) / freq (k + 12) = (f : ℝ) / freq k / 2 := by rw [freq_octave, mul_comm, div_mul_eq_div_div]
  have hlt := quotient_lt_ticks hf k
  have hle := ticks_le_quotient hf k
  have hlt' := quotient_lt_ticks hf (k + 12)
  have hle' := ticks_le_quotient hf (k + 12)
  rw [hhalf] at hlt' hle'
  constructor
  · have : (2 * ticks f (k + 12) : ℝ) ≤ ticks f k + 2 := by linarith
    exact_mod_cast this
  · have : (ticks f k : ℝ) ≤ 2 * ticks f (k + 12) + 2 := by linarith
    exact_mod_cast this

/-- The highest key has a period of at least 1 from 6272 ticks per second on. -/
theorem one_le_ticks_highest_iff : 1 ≤ ticks f 127 ↔ 6272 ≤ f := by
  have hzero : ticks f 127 ≤ 0 ↔ periodTest f 127 0 = true := ticks_le_iff hf
  have hfrom : f ≤ 6271 → periodTest f 127 0 = true := fun h => periodTest_anti_freq h (by decide)
  have hbelow : periodTest f 127 0 = true → ¬6272 ≤ f := fun h hle => by
    have : periodTest 6272 127 0 = true := periodTest_anti_freq hle h
    revert this
    decide
  constructor
  · intro h
    by_contra hlt
    have := hzero.2 (hfrom (by omega))
    omega
  · intro h
    by_contra hlt
    exact hbelow (hzero.1 (by omega)) h

end

/-- Settles O20: the test's monotonicity in the key, the real quotient for the octave, and the two numbers at their
keys. -/
theorem ticksFallsWithKey : Obligations.TicksFallsWithKey := by
  unfold Obligations.TicksFallsWithKey
  intro f _ hf
  refine ⟨fun k l h _ => ticks_anti_key hf h, ticks_a4 hf, fun k _ => ticks_octave hf k, ?every, ?a4⟩
  case every =>
    rw [← one_le_ticks_highest_iff hf]
    exact ⟨fun h => h 127 le_rfl, fun h k hk => h.trans (ticks_anti_key hf hk)⟩
  case a4 => exact ticks_a4 (by decide)

/-- A period is at least 1 exactly where the quotient is at least one half. -/
theorem one_le_ticks_iff {f : Nat} (hf : f < 2 ^ 32) (k : Nat) : 1 ≤ ticks f k ↔ freq k / 2 ≤ (f : ℝ) := by
  have hzero : ticks f k ≤ 0 ↔ (f : ℝ) / freq k < (0 : Nat) + 1 / 2 := ticks_le_iff_quotient hf k
  rw [Order.one_le_iff_pos, ← not_le, hzero, not_lt, le_div_iff₀ (freq_pos k), Nat.cast_zero]
  constructor <;> intro h <;> linarith

/-- The quotient's error of at most half a tick, scaled by `freq / ticks`, is the pitch error. -/
theorem pitch_error_le {f : Nat} (hf : f < 2 ^ 32) (k : Nat) (hpos : 1 ≤ ticks f k) :
    |(f : ℝ) / ticks f k - freq k| ≤ freq k / (2 * ticks f k) := by
  have hfreq := freq_pos k
  have hticks : (0 : ℝ) < ticks f k := by exact_mod_cast hpos
  have hlt := quotient_lt_ticks hf k
  have hle := ticks_le_quotient hf k
  have hhalf : |(f : ℝ) / freq k - ticks f k| ≤ 1 / 2 := abs_le.2 ⟨by linarith, by linarith⟩
  have hscale : (f : ℝ) / ticks f k - freq k = ((f : ℝ) / freq k - ticks f k) * (freq k / ticks f k) := by
    field_simp
  calc |(f : ℝ) / ticks f k - freq k| = |(f : ℝ) / freq k - ticks f k| * (freq k / ticks f k) := by
        rw [hscale, abs_mul, abs_of_pos (div_pos hfreq hticks)]
    _ ≤ 1 / 2 * (freq k / ticks f k) := by gcongr
    _ = freq k / (2 * ticks f k) := by field_simp

/-- Settles O21: the period is 0 exactly where the quotient is below one half, and otherwise within half a tick. -/
theorem pitchErrorIsBounded : Obligations.PitchErrorIsBounded := by
  unfold Obligations.PitchErrorIsBounded
  rintro f k _ hf _ rfl
  exact ⟨one_le_ticks_iff hf k, pitch_error_le hf k⟩

end Sys2Proof.Machine

/-! ### Proofs of the family of the remaining statements: how a command ends, and its frame -/

namespace Sys2Proof.Machine

/-! #### How a command ends (60_exceptions.md R160, R161) -/

/-- The codes that a failing command leaves with ERRVAL as it was (10_state.md R28). -/
def Code.leavesErrval : Code → Bool
  | .zeroMax | .repeatChannel | .unconfigured | .overangle | .periodRange | .loopRange => true
  | .ok | .illegal | .invalidIndex | .invalidAngle | .invalidKey | .internal => false

/-- The step from `s` to `t` ends the command in one of the ways of 60_exceptions.md R161. -/
inductive Ends (i : Instr) (s t : State) : Prop
  | ok (code : t.code = .ok) (errval : t.errval = s.errval) (fault : t.fault = s.fault)
  | fails (c : Code) (hc : c.leavesErrval = true) (eq : t = { s with code := c })
  | rejectsIndex (eq : t = { s with errval := zext32 i.ch, code := .invalidIndex })
  | rejectsValue (c : Code) (hc : c = .invalidAngle ∨ c = .invalidKey)
      (eq : t = { s with errval := zext32 i.val, code := c })
  | breaksScale (table : ¬TableInRange s) (code : t.code = .internal)

/-- With the table in range no scaled angle fails the internal check (40_servo.md R106). -/
theorem scaleAngle_le_of_tableInRange {s : State} (h : TableInRange s) {i : Slot} {m : MaxAngle}
    (hm : s.cfg[i] = some m) {a : Nat} (ha : a ≤ m.toNat) : scaleAngle a m.toNat ≤ 180 := by
  obtain ⟨hpos, _⟩ := h i m hm
  exact scaleAngle_le_nativeMax hpos ha

/-- Every way a command ends. -/
theorem exec_ends {i : Instr} {s t : State} (h : exec i s = .next t) : Ends i s t := by
  cases i with
  | scfg ch val =>
    rcases execScfg_cases h with ⟨_, rfl⟩ | ⟨_, _, ⟨_, rfl⟩ | ⟨_, rfl⟩ | ⟨_, _, _, rfl⟩ | ⟨_, _, _, rfl⟩⟩
    · exact .rejectsIndex rfl
    · exact .rejectsValue _ (.inl rfl) rfl
    · exact .fails _ rfl rfl
    · exact .fails _ rfl rfl
    · exact .ok rfl rfl rfl
  | sscl ch val =>
    rcases execSscl_cases h with ⟨_, rfl⟩ | ⟨i, _, ⟨_, rfl⟩ | ⟨_, _, rfl⟩ |
      ⟨m, hm, _, ⟨_, rfl⟩ | ⟨hle, hgt, rfl⟩ | ⟨_, _, rfl⟩⟩⟩
    · exact .rejectsIndex rfl
    · exact .rejectsValue _ (.inl rfl) rfl
    · exact .fails _ rfl rfl
    · exact .fails _ rfl rfl
    · exact .breaksScale (fun htable => Nat.not_le.2 hgt (scaleAngle_le_of_tableInRange htable hm hle)) rfl
    · exact .ok rfl rfl rfl
  | tper key =>
    rcases execTper_cases h with ⟨_, rfl⟩ | ⟨_, rfl⟩
    · exact .rejectsValue _ (.inr rfl) rfl
    · exact .ok rfl rfl rfl
  | tlcnt key =>
    rcases execTlcnt_cases h with ⟨_, rfl⟩ | ⟨_, _, _, ⟨_, rfl⟩ | ⟨_, _, _, ⟨_, rfl⟩ | ⟨_, rfl⟩⟩⟩
    · exact .rejectsValue _ (.inr rfl) rfl
    · exact .fails _ rfl rfl
    · exact .fails _ rfl rfl
    · exact .ok rfl rfl rfl
  | tplay key =>
    rcases execTplay_cases h with ⟨_, rfl⟩ | ⟨_, _, _, ⟨_, rfl⟩ | ⟨_, _, _, _, ⟨_, rfl⟩ | ⟨_, _, rfl⟩⟩⟩
    · exact .rejectsValue _ (.inr rfl) rfl
    · exact .fails _ rfl rfl
    · exact .fails _ rfl rfl
    · exact .ok rfl rfl rfl

/-- Every way an issued word ends: ILLEGAL, or as its command. -/
theorem issueCmd_ends {w : Word} {s t : State} (h : issueCmd w s = .next t) :
    t = { s with errval := w, code := .illegal } ∨ ∃ i, decode w = .cmd i ∧ Ends i s t := by
  rcases issueCmd_cases h with ⟨_, rfl⟩ | ⟨i, hd, hx⟩
  · exact .inl rfl
  · exact .inr ⟨i, hd, exec_ends hx⟩

/-- Settles O13: only the end that needs a table out of range has CODE ERR_INTERNAL or raises the fault. -/
theorem scaleInvariantUnreachable : Obligations.ScaleInvariantUnreachable := by
  unfold Obligations.ScaleInvariantUnreachable
  intro s t w htable h
  rcases issueCmd_ends h with rfl | ⟨i, _, hend⟩
  · exact ⟨by simp, rfl⟩
  · cases hend with
    | ok hcode _ hfault => exact ⟨by simp [hcode], hfault⟩
    | fails c hc eq => subst eq; exact ⟨(by rintro rfl; cases hc), rfl⟩
    | rejectsIndex eq => subst eq; exact ⟨by simp, rfl⟩
    | rejectsValue c hc eq => subst eq; exact ⟨(by rintro rfl; simp at hc), rfl⟩
    | breaksScale hout _ => exact absurd htable hout

/-- Settles O46: each end but OK is written out as CODE and at most ERRVAL. -/
theorem failingCommandsArePrecise : Obligations.FailingCommandsArePrecise := by
  unfold Obligations.FailingCommandsArePrecise
  intro w s t htable h
  rcases issueCmd_ends h with rfl | ⟨i, hd, hend⟩
  · simp
  · cases hend with
    | ok hcode herrval _ => exact ⟨fun hne => absurd hcode hne, fun _ => ⟨herrval, i, hd⟩⟩
    | fails c hc eq => subst eq; exact ⟨fun _ => ⟨rfl, fun _ _ _ _ => rfl⟩, fun _ => ⟨rfl, i, hd⟩⟩
    | rejectsIndex eq => subst eq; simp
    | rejectsValue c hc eq => subst eq; rcases hc with rfl | rfl <;> simp
    | breaksScale hout _ => exact absurd htable hout

/-- Widening keeps the number (10_state.md R28). -/
theorem zext32_toNat {n : Nat} (hn : n ≤ 32) (v : BitVec n) : (zext32 v).toNat = v.toNat := by
  rw [zext32, BitVec.toNat_setWidth, Nat.mod_eq_of_lt]
  exact v.isLt.trans_le (Nat.pow_le_pow_right (by decide) hn)

/-- Settles O47: the operands of the decoded command are the word's bits 23:16 and 15:0. -/
theorem errvalHoldsRejectedValue : Obligations.ErrvalHoldsRejectedValue := by
  unfold Obligations.ErrvalHoldsRejectedValue
  intro w s t h
  rcases issueCmd_ends h with rfl | ⟨i, hd, hend⟩
  · simp
  · obtain ⟨_, _, hch, hval⟩ := fields_of_decode hd
    have hindex : (zext32 i.ch).toNat = w.toNat / 2 ^ 16 % 256 := by
      simp [zext32_toNat, ← hch, chField_toNat]
    have hvalue : (zext32 i.val).toNat = w.toNat % 2 ^ 16 := by
      rw [zext32_toNat (by decide), ← hval, valField_toNat]
    cases hend with
    | ok hcode _ _ => simp [hcode]
    | fails c hc eq => subst eq; cases c <;> simp [Code.leavesErrval] at hc ⊢
    | rejectsIndex eq => subst eq; simpa using hindex
    | rejectsValue c hc eq => subst eq; rcases hc with rfl | rfl <;> simpa using hvalue
    | breaksScale _ hcode => simp [hcode]

/-! #### The frames of the commands (40_servo.md R102, R104; 41_tone.md R122, R126, R130) -/

theorem servoWord_congr {s t : State} {i : Slot} (h : t.cfg[i] = s.cfg[i]) : servoWord i t = servoWord i s := by
  simp only [servoWord, h]

/-- What the window reads at an offset other than STATUS and ERRVAL depends on that offset's own register alone
(10_state.md R20). -/
theorem readWindow_frame {s t : State} {off : Offset} (h2 : off.toNat / 4 ≠ 2) (h5 : off.toNat / 4 ≠ 5)
    (harg : t.arg = s.arg) (hparams : t.params = s.params) (hresult : off.toNat / 4 = 3 → t.result = s.result)
    (hloops : off.toNat / 4 = 4 → t.loops = s.loops)
    (hcfg : ∀ j : Slot, off.toNat / 4 = 8 + j.val → t.cfg[j] = s.cfg[j]) : readWindow off t = readWindow off s := by
  have hoff := off.isLt
  unfold readWindow
  split
  · rfl
  · exact harg
  · contradiction
  · next h => exact hresult h
  · next h => exact hloops h
  · contradiction
  · rw [hparams]
  · rfl
  · next h => exact servoWord_congr (hcfg 0 h)
  · next h => exact servoWord_congr (hcfg 1 h)
  · next h => exact servoWord_congr (hcfg 2 h)
  · next h => exact servoWord_congr (hcfg 3 h)
  · next h => exact servoWord_congr (hcfg 4 h)
  · next h => exact servoWord_congr (hcfg 5 h)
  · next h => exact servoWord_congr (hcfg 6 h)
  · next => exact servoWord_congr (hcfg 7 (by simp only [imp_false] at *; simp; omega))

/-- The frame of SCFG: the table, CODE and ERRVAL, and of the table the slot of CH (40_servo.md R102). -/
theorem execScfg_frame {s t : State} {ch : BitVec 8} {val : BitVec 16} (h : execScfg ch val s = .next t) :
    t = { s with cfg := t.cfg, code := t.code, errval := t.errval } ∧
    ∀ j : Slot, ch.toNat ≠ j.val + 1 → t.cfg[j] = s.cfg[j] := by
  rcases execScfg_cases h with ⟨_, rfl⟩ | ⟨i, hi, ⟨_, rfl⟩ | ⟨_, rfl⟩ | ⟨_, _, _, rfl⟩ | ⟨_, _, _, rfl⟩⟩
  · exact ⟨rfl, fun _ _ => rfl⟩
  · exact ⟨rfl, fun _ _ => rfl⟩
  · exact ⟨rfl, fun _ _ => rfl⟩
  · exact ⟨rfl, fun _ _ => rfl⟩
  · refine ⟨rfl, fun j hj => ?_⟩
    have hij : i.val ≠ j.val := fun hij => hj (hij ▸ slotOf_eq_some.1 hi)
    exact Vector.getElem_set_ne i.isLt j.isLt hij

/-- The frame of SSCL where no stored maximum is out of range (40_servo.md R104, R106). -/
theorem execSscl_frame {s t : State} {ch : BitVec 8} {val : BitVec 16} (h : execSscl ch val s = .next t)
    (htable : TableInRange s) :
    t = { s with result := t.result, code := t.code, errval := t.errval, history := t.history } := by
  rcases execSscl_cases h with ⟨_, rfl⟩ | ⟨i, _, ⟨_, rfl⟩ | ⟨_, _, rfl⟩ |
    ⟨m, hm, _, ⟨_, rfl⟩ | ⟨hle, hgt, _⟩ | ⟨_, _, rfl⟩⟩⟩
  · rfl
  · rfl
  · rfl
  · rfl
  · exact absurd hgt (Nat.not_lt.2 (scaleAngle_le_of_tableInRange htable hm hle))
  · rfl

/-- Settles O26: the two frames in State, and what the window shows of them. -/
theorem servoCommandFrames : Obligations.ServoCommandFrames := by
  unfold Obligations.ServoCommandFrames
  intro s t ch val
  refine ⟨fun h => ?scfg, fun h htable => ?sscl⟩
  case scfg =>
    obtain ⟨hframe, hslots⟩ := execScfg_frame h
    refine ⟨hframe, hslots, fun off h2 h5 hch => ?_⟩
    exact readWindow_frame h2 h5 (by rw [hframe]) (by rw [hframe]) (fun _ => by rw [hframe]) (fun _ => by rw [hframe])
      fun j hj => hslots j (by omega)
  case sscl =>
    have hframe := execSscl_frame h htable
    refine ⟨hframe, fun off h2 h3 h5 => ?_⟩
    exact readWindow_frame h2 h5 (by rw [hframe]) (by rw [hframe]) (fun h => absurd h h3) (fun _ => by rw [hframe])
      fun j _ => by rw [hframe]

theorem execTper_frame {s t : State} {key : BitVec 16} (h : execTper key s = .next t) :
    t = { s with result := t.result, code := t.code, errval := t.errval } := by
  rcases execTper_cases h with ⟨_, rfl⟩ | ⟨_, rfl⟩
  · rfl
  · rfl

theorem execTlcnt_frame {s t : State} {key : BitVec 16} (h : execTlcnt key s = .next t) :
    t = { s with result := t.result, loops := t.loops, code := t.code, errval := t.errval } := by
  rcases execTlcnt_cases h with ⟨_, rfl⟩ | ⟨_, _, _, ⟨_, rfl⟩ | ⟨_, _, _, ⟨_, rfl⟩ | ⟨_, rfl⟩⟩⟩
  · rfl
  · rfl
  · rfl
  · rfl

/-- A TPLAY fails with CODE and at most ERRVAL, or is accepted (41_tone.md R130). -/
theorem execTplay_fails_or_plays {s t : State} {key : BitVec 16} (h : execTplay key s = .next t) :
    (t.code ≠ .ok ∧ t = { s with code := t.code, errval := t.errval }) ∨ ∃ r n, t = playTone r n s := by
  by_cases hok : t.code = .ok
  · exact .inr (execTplay_accepted h hok)
  · rcases execTplay_cases h with ⟨_, rfl⟩ | ⟨_, _, _, ⟨_, rfl⟩ | ⟨_, _, _, _, ⟨_, rfl⟩ | ⟨_, _, rfl⟩⟩⟩
    · exact .inl ⟨hok, rfl⟩
    · exact .inl ⟨hok, rfl⟩
    · exact .inl ⟨hok, rfl⟩
    · exact absurd rfl hok

/-- Settles O27: the three frames in State, and what the window shows of them; no tone command reaches the table. -/
theorem toneCommandFrames : Obligations.ToneCommandFrames := by
  unfold Obligations.ToneCommandFrames
  intro s t key
  refine ⟨fun h => ?tper, fun h => ?tlcnt, fun h => ?tplay⟩
  case tper =>
    have hframe := execTper_frame h
    refine ⟨hframe, fun off h2 h3 h5 => ?_⟩
    exact readWindow_frame h2 h5 (by rw [hframe]) (by rw [hframe]) (fun h => absurd h h3) (fun _ => by rw [hframe])
      fun j _ => by rw [hframe]
  case tlcnt =>
    have hframe := execTlcnt_frame h
    refine ⟨hframe, fun off h2 h3 h4 h5 => ?_⟩
    exact readWindow_frame h2 h5 (by rw [hframe]) (by rw [hframe]) (fun h => absurd h h3) (fun h => absurd h h4)
      fun j _ => by rw [hframe]
  case tplay =>
    rcases execTplay_fails_or_plays h with ⟨hne, hframe⟩ | ⟨r, n, rfl⟩
    · refine ⟨fun _ => hframe, fun hok => absurd hok hne, fun off h2 h3 h4 h5 => ?_⟩
      exact readWindow_frame h2 h5 (by rw [hframe]) (by rw [hframe]) (fun h => absurd h h3) (fun h => absurd h h4)
        fun j _ => by rw [hframe]
    · refine ⟨fun hne => absurd rfl hne, fun _ => rfl, fun off h2 h3 h4 h5 => ?_⟩
      exact readWindow_frame h2 h5 rfl rfl (fun h => absurd h h3) (fun h => absurd h h4) fun _ _ => rfl

end Sys2Proof.Machine

/-! ### Proofs of the family of the remaining statements: what a step reads -/

namespace Sys2Proof.Machine

/-! #### A command reads the parameters, ARG and the table alone -/

/-- What a command does to the state, as data. -/
inductive Effect where
  | fails (c : Code) (errval : Option Word)
  | fills (i : Slot) (val : BitVec 16)
  | breaksScale
  | delivers (i : Slot) (raw : Nat)
  | answers (result : Word) (loops : Option Word)
  | plays (r n : Word)

/-- The next state of a command with the effect. -/
def Effect.apply : Effect → State → State
  | .fails c e, s => { s with errval := e.getD s.errval, code := c }
  | .fills i val, s => setCode .ok (writeSlot i val s)
  | .breaksScale, s => setCode .internal (raiseFault .scaleInvariant s)
  | .delivers i raw, s => setCode .ok (emit (.servoOut i (BitVec.ofNat 8 raw)) { s with result := BitVec.ofNat 32 raw })
  | .answers r l, s => { s with result := r, loops := l.getD s.loops, code := .ok }
  | .plays r n, s => playTone r n s

/-- The events that the effect appends. -/
def Effect.events : Effect → List Event
  | .delivers i raw => [.servoOut i (BitVec.ofNat 8 raw)]
  | .plays r n => [.pwmClaim, .pwmStart r n]
  | .fails _ _ | .fills _ _ | .breaksScale | .answers _ _ => []

/-- Whether the effect is the acceptance of a tone, which clears `S.pwm_done` (41_tone.md R130). -/
def Effect.accepts : Effect → Bool
  | .plays _ _ => true
  | .fails _ _ | .fills _ _ | .breaksScale | .delivers _ _ | .answers _ _ => false

/-- The two states give a command the same to read. -/
structure SameInputs (s t : State) : Prop where
  params : t.params = s.params
  arg : t.arg = s.arg
  cfg : t.cfg = s.cfg

theorem SameInputs.loopCount_eq {s t : State} (h : SameInputs s t) (n : Nat) :
    t.arg.toNat * t.params.tickFreq.toNat / (2000 * n) = s.arg.toNat * s.params.tickFreq.toNat / (2000 * n) := by
  rw [h.arg, h.params]

theorem execScfg_reads (ch : BitVec 8) (val : BitVec 16) (s : State) :
    ∃ e : Effect, ∀ t, SameInputs s t → execScfg ch val t = .next (e.apply t) := by
  rcases hch : slotOf ch with _ | i
  · exact ⟨.fails .invalidIndex (some _), fun t _ => execScfg_of_invalidIndex hch⟩
  · by_cases hhi : val.toNat ≤ 359
    · by_cases hz : val.toNat = 0
      · exact ⟨.fails .zeroMax none, fun t _ => execScfg_of_zeroMax hch hz⟩
      · have hlo : 1 ≤ val.toNat := Nat.pos_of_ne_zero hz
        rcases hslot : s.cfg[i] with _ | m
        · exact ⟨.fills i val, fun t hin => execScfg_of_empty hch hlo hhi (hin.cfg ▸ hslot)⟩
        · exact ⟨.fails .repeatChannel none, fun t hin => execScfg_of_taken hch hlo hhi (hin.cfg ▸ hslot)⟩
    · exact ⟨.fails .invalidAngle (some _), fun t _ => execScfg_of_invalidAngle hch (Nat.lt_of_not_le hhi)⟩

/-- A quotient above the native range fails the internal check of 40_servo.md R106. -/
theorem deliverAngle_of_gt {i : Slot} {raw : Nat} {s : State} (hraw : 180 < raw) :
    deliverAngle i raw s = .next { s with fault := some .scaleInvariant, code := .internal } :=
  if_pos hraw

theorem execSscl_reads (ch : BitVec 8) (val : BitVec 16) (s : State) :
    ∃ e : Effect, ∀ t, SameInputs s t → execSscl ch val t = .next (e.apply t) := by
  rcases hch : slotOf ch with _ | i
  · exact ⟨.fails .invalidIndex (some _), fun t _ => execSscl_of_invalidIndex hch⟩
  · by_cases hhi : val.toNat ≤ 359
    · rcases hslot : s.cfg[i] with _ | m
      · exact ⟨.fails .unconfigured none, fun t hin => execSscl_of_unconfigured hch hhi (hin.cfg ▸ hslot)⟩
      · by_cases hle : val.toNat ≤ m.toNat
        · have hdeliver (t : State) (hin : SameInputs s t) :
              execSscl ch val t = deliverAngle i (scaleAngle val.toNat m.toNat) t :=
            execSscl_of_le_max hch hhi (hin.cfg ▸ hslot) hle
          by_cases hraw : scaleAngle val.toNat m.toNat ≤ 180
          · exact ⟨.delivers i (scaleAngle val.toNat m.toNat),
              fun t hin => (hdeliver t hin).trans (deliverAngle_of_le hraw)⟩
          · exact ⟨.breaksScale, fun t hin => (hdeliver t hin).trans (deliverAngle_of_gt (Nat.lt_of_not_le hraw))⟩
        · exact ⟨.fails .overangle none,
            fun t hin => execSscl_of_overangle hch hhi (hin.cfg ▸ hslot) (Nat.lt_of_not_le hle)⟩
    · exact ⟨.fails .invalidAngle (some _), fun t _ => execSscl_of_invalidAngle hch (Nat.lt_of_not_le hhi)⟩

theorem execTper_reads (key : BitVec 16) (s : State) :
    ∃ e : Effect, ∀ t, SameInputs s t → execTper key t = .next (e.apply t) := by
  by_cases hkey : key.toNat ≤ 127
  · refine ⟨.answers (BitVec.ofNat 32 (ticks s.params.tickFreq.toNat key.toNat)) none, fun t hin => ?_⟩
    rw [← hin.params]
    exact execTper_of_validKey hkey
  · exact ⟨.fails .invalidKey (some _), fun t _ => execTper_of_invalidKey (Nat.lt_of_not_le hkey)⟩

theorem execTlcnt_reads (key : BitVec 16) (s : State) :
    ∃ e : Effect, ∀ t, SameInputs s t → execTlcnt key t = .next (e.apply t) := by
  by_cases hkey : key.toNat ≤ 127
  · have hvalid (t : State) (hin : SameInputs s t) :
        execTlcnt key t = finishTlcnt (ticks s.params.tickFreq.toNat key.toNat) t :=
      hin.params ▸ execTlcnt_of_validKey hkey
    generalize ticks s.params.tickFreq.toNat key.toNat = n at hvalid
    by_cases h0 : n = 0
    · exact ⟨.fails .periodRange none, fun t hin => (hvalid t hin).trans (finishTlcnt_of_zero h0)⟩
    · by_cases hl : s.arg.toNat * s.params.tickFreq.toNat / (2000 * n) ≤ 2 ^ 32 - 1
      · refine ⟨.answers (BitVec.ofNat 32 n)
          (some (BitVec.ofNat 32 (s.arg.toNat * s.params.tickFreq.toNat / (2000 * n)))), fun t hin => ?_⟩
        rw [hvalid t hin, finishTlcnt_of_fits h0 (by rwa [hin.loopCount_eq]), hin.loopCount_eq]
        rfl
      · refine ⟨.fails .loopRange none, fun t hin => (hvalid t hin).trans (finishTlcnt_of_overflow h0 ?_)⟩
        rw [hin.loopCount_eq]
        exact Nat.lt_of_not_le hl
  · exact ⟨.fails .invalidKey (some _), fun t _ => execTlcnt_of_invalidKey (Nat.lt_of_not_le hkey)⟩

theorem execTplay_reads (key : BitVec 16) (s : State) :
    ∃ e : Effect, ∀ t, SameInputs s t → execTplay key t = .next (e.apply t) := by
  by_cases hkey : key.toNat ≤ 127
  · have hvalid (t : State) (hin : SameInputs s t) :
        execTplay key t = finishTplay (ticks s.params.tickFreq.toNat key.toNat) t :=
      hin.params ▸ execTplay_of_validKey hkey
    generalize ticks s.params.tickFreq.toNat key.toNat = n at hvalid
    by_cases hperiod : n = 0 ∨ s.params.pwmPeriodMax.toNat < n
    · exact ⟨.fails .periodRange none,
        fun t hin => (hvalid t hin).trans (finishTplay_of_periodRange (hin.params ▸ hperiod))⟩
    · obtain ⟨h0, hmax⟩ := not_or.1 hperiod
      have hmax' (t : State) (hin : SameInputs s t) : n ≤ t.params.pwmPeriodMax.toNat :=
        hin.params ▸ Nat.le_of_not_lt hmax
      by_cases hloop : s.arg.toNat * s.params.tickFreq.toNat / (2000 * n) = 0 ∨
          s.params.pwmLoopMax.toNat < s.arg.toNat * s.params.tickFreq.toNat / (2000 * n)
      · refine ⟨.fails .loopRange none,
          fun t hin => (hvalid t hin).trans (finishTplay_of_loopRange h0 (hmax' t hin) ?_)⟩
        rwa [hin.loopCount_eq, hin.params]
      · obtain ⟨hl0, hlmax⟩ := not_or.1 hloop
        refine ⟨.plays (BitVec.ofNat 32 n) (BitVec.ofNat 32 (s.arg.toNat * s.params.tickFreq.toNat / (2000 * n))),
          fun t hin => ?_⟩
        rw [hvalid t hin, finishTplay_of_accepted h0 (hmax' t hin) (by rwa [hin.loopCount_eq])
          (by rw [hin.loopCount_eq, hin.params]; exact Nat.le_of_not_lt hlmax), hin.loopCount_eq]
        rfl
  · exact ⟨.fails .invalidKey (some _), fun t _ => execTplay_of_invalidKey (Nat.lt_of_not_le hkey)⟩

/-- A command has the same effect in all states with the same parameters, ARG and table. -/
theorem exec_reads (i : Instr) (s : State) : ∃ e : Effect, ∀ t, SameInputs s t → exec i t = .next (e.apply t) := by
  cases i with
  | scfg ch val => exact execScfg_reads ch val s
  | sscl ch val => exact execSscl_reads ch val s
  | tper key => exact execTper_reads key s
  | tlcnt key => exact execTlcnt_reads key s
  | tplay key => exact execTplay_reads key s

/-- So does an issued word: ILLEGAL reads nothing. -/
theorem issueCmd_reads (w : Word) (s : State) :
    ∃ e : Effect, ∀ t, SameInputs s t → issueCmd w t = .next (e.apply t) := by
  rcases hd : decode w with i | why
  · obtain ⟨e, he⟩ := exec_reads i s
    exact ⟨e, fun t hin => (issueCmd_of_cmd hd t).trans (he t hin)⟩
  · exact ⟨.fails .illegal (some w), fun t _ => issueCmd_of_illegal hd t⟩

/-! #### The history and `S.pwm_done` are hidden from the host's step (10_state.md R41, 93 I5) -/

/-- The state with another history and another value of `S.pwm_done`. -/
def withHidden (h : List Event) (b : Bool) (s : State) : State := { s with history := h, pwmDone := b }

/-- From `s`, with any history and flag, the operation answers `t` with `es` appended to that history and the flag as
it was, or cleared where `clears`. -/
def HidesFrom (f : State → Host.Outcome State Fault Refusal) (s t : State) (es : List Event) (clears : Bool) : Prop :=
  ∀ h b, f (withHidden h b s) = .next (withHidden (h ++ es) (b && !clears) t)

/-- The operation hides both from `s`, and clears the flag where it takes the sequencer from IDLE to PLAYING. -/
def Hides (f : State → Host.Outcome State Fault Refusal) (s : State) : Prop :=
  ∃ t es clears, HidesFrom f s t es clears ∧ (s.seq = .idle → t.seq = .playing → clears = true)

/-- An update that neither reads nor writes the hidden fields, nor the sequencer. -/
theorem Hides.of_update {f : State → Host.Outcome State Fault Refusal} {s : State} (t : State)
    (hf : ∀ h b, f (withHidden h b s) = .next (withHidden h b t)) (hseq : t.seq = s.seq) : Hides f s :=
  ⟨t, [], false, fun h b => by simpa using hf h b, fun hi hp => by simp [hseq, hi] at hp⟩

theorem Effect.apply_withHidden (e : Effect) (h : List Event) (b : Bool) (s : State) :
    e.apply (withHidden h b s) = withHidden (h ++ e.events) (b && !e.accepts) (e.apply s) := by
  cases e <;> simp [apply, events, accepts, withHidden, setCode, writeSlot, raiseFault, emit, playTone_eq]

theorem Effect.seq_apply (e : Effect) (s : State) : (e.apply s).seq = if e.accepts then .playing else s.seq := by
  cases e <;> rfl

theorem issueCmd_hides (w : Word) (s : State) : Hides (issueCmd w) s := by
  obtain ⟨e, he⟩ := issueCmd_reads w s
  refine ⟨e.apply s, e.events, e.accepts, fun h b => ?_, fun hi hp => ?_⟩
  · rw [he (withHidden h b s) ⟨rfl, rfl, rfl⟩, e.apply_withHidden]
  · by_contra hne
    simp [e.seq_apply, hne, hi] at hp

theorem readWindow_withHidden (off : Offset) (h : List Event) (b : Bool) (s : State) :
    readWindow off (withHidden h b s) = readWindow off s :=
  readWindow_congr rfl (statusWord_congr rfl rfl rfl) rfl rfl rfl rfl rfl off

theorem writeCmd_hides (w : Word) (s : State) : Hides (writeCmd w) s := by
  rcases hs : s.seq with _ | _
  · obtain ⟨t, es, clears, hhides, hseq⟩ := issueCmd_hides w s
    exact ⟨t, es, clears, fun h b => (writeCmd_of_idle (by exact hs) w).trans (hhides h b), hseq⟩
  · refine .of_update (overrunCmd w s) (fun h b => ?_) rfl
    have hs' : (withHidden h b s).seq = .playing := hs
    simp only [writeCmd, hs']
    rfl

theorem writeWindow_hides (off : Offset) (w : Word) (s : State) : Hides (writeWindow off w) s := by
  unfold writeWindow
  split
  · exact writeCmd_hides w s
  · exact .of_update { s with arg := w } (fun _ _ => rfl) rfl
  · exact .of_update (writeStatus w s) (fun _ _ => rfl) rfl
  · exact .of_update s (fun _ _ => rfl) rfl

theorem hostRead_withHidden (off : Offset) (size : Nat) (h : List Event) (b : Bool) (s : State) :
    hostRead off size (withHidden h b s) = withHidden h b (hostRead off size s) := by
  unfold hostRead
  split
  · rw [readWindow_withHidden]; rfl
  · rfl

theorem hostRead_seq (off : Offset) (size : Nat) (s : State) : (hostRead off size s).seq = s.seq :=
  (hostRead_keepsBurst off size s).seq

theorem hostWrite_hides (off : Offset) (size : Nat) (w : Word) (s : State) : Hides (hostWrite off size w) s := by
  unfold hostWrite
  split
  · obtain ⟨t, es, clears, hhides, hseq⟩ := writeWindow_hides off w { s with resp := some .okWrite }
    exact ⟨t, es, clears, hhides, hseq⟩
  · exact .of_update (badAccess off size s) (fun _ _ => rfl) rfl

theorem pollIdle_withHidden (h : List Event) (b : Bool) (s : State) :
    pollIdle (withHidden h b s) = withHidden h b (pollIdle s) := by
  rw [pollIdle_eq, pollIdle_eq]
  rfl

/-- No host access reads the hidden fields. -/
theorem hostStep_hides (s : State) : Hides hostStep s := by
  rcases hp : s.prog with _ | ⟨⟨off, size⟩ | ⟨off, size, w⟩ | _, ops⟩
  · refine .of_update s (fun h b => ?_) rfl
    have hp' : (withHidden h b s).prog = [] := hp
    simp only [hostStep, hp']
  · refine .of_update (hostRead off size { s with prog := ops }) (fun h b => ?_) (hostRead_seq off size _)
    have hp' : (withHidden h b s).prog = .read off size :: ops := hp
    simp only [hostStep, hp']
    exact congrArg _ (hostRead_withHidden off size h b { s with prog := ops })
  · obtain ⟨t, es, clears, hhides, hseq⟩ := hostWrite_hides off size w { s with prog := ops }
    refine ⟨t, es, clears, fun h b => ?_, hseq⟩
    have hp' : (withHidden h b s).prog = .write off size w :: ops := hp
    simp only [hostStep, hp']
    exact hhides h b
  · refine .of_update (pollIdle s) (fun h b => ?_) (by rw [pollIdle_eq])
    have hp' : (withHidden h b s).prog = .waitIdle :: ops := hp
    simp only [hostStep, hp', pollIdle_withHidden]

/-! #### No step is withheld (70_reset_and_hazards.md R191) -/

theorem exec_total (i : Instr) (s : State) : ∃ t, exec i s = .next t := by
  obtain ⟨e, he⟩ := exec_reads i s
  exact ⟨e.apply s, he s ⟨rfl, rfl, rfl⟩⟩

theorem hostStep_total (s : State) : ∃ t, hostStep s = .next t := by
  obtain ⟨t, es, clears, hhides, _⟩ := hostStep_hides s
  exact ⟨_, hhides s.history s.pwmDone⟩

theorem takeTurn_total (u : Turn) (s : State) : ∃ t, takeTurn u s = .next t := by
  cases u with
  | host => exact hostStep_total s
  | capability => exact ⟨_, rfl⟩
  | controller => exact ⟨_, rfl⟩
  | reset => exact ⟨_, rfl⟩
  | resetOverAccess => exact ⟨_, rfl⟩

theorem step_of_no_turn {s : State} (ht : s.turns = []) : step s = .next s := by
  simp [step, ht]

/-- A step is the step of the turn at the head of the interleaving (20_memory.md R59). -/
theorem step_of_turn {s : State} {u : Turn} {rest : List Turn} (ht : s.turns = u :: rest) :
    step s = takeTurn u { s with turns := rest } := by
  simp [step, ht]

theorem turns_cases (s : State) : s.turns = [] ∨ ∃ u rest, s.turns = u :: rest := by
  cases s.turns <;> simp

theorem step_total (s : State) : ∃ t, step s = .next t := by
  rcases turns_cases s with ht | ⟨u, rest, ht⟩
  · exact ⟨s, step_of_no_turn ht⟩
  · rw [step_of_turn ht]
    exact takeTurn_total u _

/-- Settles O38: every command has an effect, and every turn one next state. -/
theorem stepAlwaysAnswersNext : Obligations.StepAlwaysAnswersNext := by
  unfold Obligations.StepAlwaysAnswersNext
  exact ⟨step_total, exec_total⟩

/-! #### The turns and the hidden fields -/

/-- The events that a reset appends (10_state.md R40). -/
def Seq.resetEvents : Seq → List Event
  | .idle => [.reset]
  | .playing => [.pwmRelease, .reset]

theorem resetHistory_eq (s : State) : resetHistory s = s.history ++ s.seq.resetEvents := by
  unfold resetHistory Seq.resetEvents
  cases s.seq <;> rfl

/-- The history after the operation is the one before it with `es` appended, whatever that one is. -/
def AppendsOnly (f : State → State) (s : State) (es : List Event) : Prop :=
  ∀ h, f { s with history := h } = { f s with history := h ++ es }

theorem capabilityStep_appendsOnly (s : State) : AppendsOnly capabilityStep s [] := by
  intro h
  unfold capabilityStep
  split <;> simp

/-- The event that the completion step appends, where it is enabled. -/
def completionEvents (s : State) : List Event :=
  if s.seq = .playing ∧ s.pwmDone = true then [.pwmRelease] else []

theorem completionStep_appendsOnly (s : State) : AppendsOnly completionStep s (completionEvents s) := by
  intro h
  unfold completionStep completionEvents
  split <;> simp [emit]

theorem applyReset_appendsOnly (s : State) : AppendsOnly applyReset s s.seq.resetEvents := by
  intro h
  simp [applyReset, resetHistory_eq]

/-- The statement of the history, for a turn that is one operation on the state. -/
theorem AppendsOnly.of_next {f : State → State} {s : State} {es : List Event} (hf : AppendsOnly f s es) :
    ∃ es, (f s).history = s.history ++ es ∧
      ∀ h, (.next (f { s with history := h }) : Host.Outcome State Fault Refusal) =
        .next { f s with history := h ++ es } :=
  ⟨es, congrArg State.history (hf s.history), fun h => congrArg _ (hf h)⟩

theorem takeTurn_appendsOnly {u : Turn} {s t : State} (h : takeTurn u s = .next t) :
    ∃ es, t.history = s.history ++ es ∧
      ∀ h, takeTurn u { s with history := h } = .next { t with history := h ++ es } := by
  cases u with
  | host =>
    obtain ⟨v, es, clears, hhides, _⟩ := hostStep_hides s
    have hown : hostStep s = .next (withHidden (s.history ++ es) (s.pwmDone && !clears) v) :=
      hhides s.history s.pwmDone
    cases h.symm.trans hown
    exact ⟨es, rfl, fun h => hhides h s.pwmDone⟩
  | capability => cases h; exact (capabilityStep_appendsOnly s).of_next
  | controller => cases h; exact (completionStep_appendsOnly s).of_next
  | reset => cases h; exact (applyReset_appendsOnly s).of_next
  | resetOverAccess => cases h; exact (applyReset_appendsOnly { s with prog := loseAccess s.prog }).of_next

/-- Settles O48: turn by turn, by what the host's step hides and what each agent step and a reset append. -/
theorem historyIsAppendOnlyAndUnread : Obligations.HistoryIsAppendOnlyAndUnread := by
  unfold Obligations.HistoryIsAppendOnlyAndUnread
  intro s t hstep
  rcases turns_cases s with ht | ⟨u, rest, ht⟩
  · cases (step_of_no_turn ht).symm.trans hstep
    exact ⟨[], by simp, fun h => by
      simpa using step_of_no_turn (s := { s with history := h }) ht⟩
  · obtain ⟨es, hes, hunread⟩ := takeTurn_appendsOnly ((step_of_turn ht).symm.trans hstep)
    exact ⟨es, hes, fun h => (step_of_turn (s := { s with history := h }) ht).trans (hunread h)⟩

theorem completionStep_of_idle {s : State} (hs : s.seq = .idle) : completionStep s = s := by
  simp [completionStep, hs]

theorem capabilityStep_of_stopped {s : State} (hrun : s.pwmRun = false) : capabilityStep s = s := by
  simp [capabilityStep, hrun]

/-- From IDLE, with the capability stopped, no turn reads the flag, and one that leads to PLAYING clears it. -/
theorem takeTurn_pwmDone {u : Turn} {s t : State} (b : Bool) (hs : s.seq = .idle) (hrun : s.pwmRun = false)
    (h : takeTurn u s = .next t) :
    ∃ b', takeTurn u { s with pwmDone := b } = .next { t with pwmDone := b' } ∧
      (t.seq = .playing → b' = false ∧ t.pwmDone = false) := by
  cases u with
  | host =>
    obtain ⟨v, es, clears, hhides, hseq⟩ := hostStep_hides s
    have hown : hostStep s = .next (withHidden (s.history ++ es) (s.pwmDone && !clears) v) :=
      hhides s.history s.pwmDone
    cases h.symm.trans hown
    exact ⟨b && !clears, hhides s.history b, fun hp => by simp [withHidden, hseq hs hp]⟩
  | capability =>
    rw [takeTurn, capabilityStep_of_stopped hrun] at h
    cases h
    exact ⟨b, congrArg Host.Outcome.next (capabilityStep_of_stopped (by exact hrun)), fun hp => by simp [hs] at hp⟩
  | controller =>
    rw [takeTurn, completionStep_of_idle hs] at h
    cases h
    exact ⟨b, congrArg Host.Outcome.next (completionStep_of_idle (by exact hs)), fun hp => by simp [hs] at hp⟩
  | reset => cases h; exact ⟨_, rfl, fun hp => by cases hp⟩
  | resetOverAccess => cases h; exact ⟨_, rfl, fun hp => by cases hp⟩

/-- Settles O49: the host's step hides the flag, the two agent steps are not enabled, and a reset overwrites it. -/
theorem pwmDoneUnreadWhileIdle : Obligations.PwmDoneUnreadWhileIdle := by
  unfold Obligations.PwmDoneUnreadWhileIdle
  intro s t b hs hrun hstep
  rcases turns_cases s with ht | ⟨u, rest, ht⟩
  · cases (step_of_no_turn ht).symm.trans hstep
    exact ⟨b, step_of_no_turn (by exact ht), fun hp => by simp [hs] at hp⟩
  · rw [step_of_turn ht] at hstep
    rw [step_of_turn (s := { s with pwmDone := b }) ht]
    exact takeTurn_pwmDone (s := { s with turns := rest }) b hs hrun hstep

end Sys2Proof.Machine

/-! ### Proofs of the family of the remaining statements: the sequencer, the invariant and the burst -/

namespace Sys2Proof.Machine

/-! #### Who writes the sequencer and the capability's interface (10_state.md R34, R35; 41_tone.md R127) -/

/-- A period and a loop count that the capability accepts (41_tone.md R130). -/
structure BurstFits (p : Params) (r n : Word) : Prop where
  period : r.toNat ≠ 0 ∧ r.toNat ≤ p.pwmPeriodMax.toNat
  loops : n.toNat ≠ 0 ∧ n.toNat ≤ p.pwmLoopMax.toNat

/-- The sequencer and the capability's interface are left as they were. -/
structure KeepsSequencer (s t : State) : Prop where
  seq : t.seq = s.seq
  claim : t.pwmClaim = s.pwmClaim
  period : t.pwmPeriod = s.pwmPeriod
  loops : t.pwmLoops = s.pwmLoops
  run : t.pwmRun = s.pwmRun
  done : t.pwmDone = s.pwmDone

/-- What is appended to the history leaves the phase where it is (10_state.md R41). -/
def KeepsPhase (p : Phase) (s t : State) : Prop :=
  ∃ es, t.history = s.history ++ es ∧ historyPhase p es = some p

theorem KeepsPhase.of_history_eq {p : Phase} {s t : State} (h : t.history = s.history) : KeepsPhase p s t :=
  ⟨[], by simp [h], rfl⟩

/-- A scaled angle in the native range leaves the phase released (10_state.md R36). -/
theorem historyPhase_servoOut (i : Slot) {raw : Nat} (h : raw ≤ 180) :
    historyPhase .released [.servoOut i (BitVec.ofNat 8 raw)] = some .released := by
  have hraw : raw % 2 ^ 8 ≤ Config.nativeMax := (Nat.mod_le _ _).trans h
  simpa using hraw

/-- A command is an accepted TPLAY or leaves the sequencer, with angles as its only events. -/
theorem exec_sequencer {i : Instr} {s t : State} (h : exec i s = .next t) :
    (∃ key r n, i = .tplay key ∧ BurstFits s.params r n ∧ t = playTone r n s) ∨
    (KeepsSequencer s t ∧ KeepsPhase .released s t) := by
  rcases exec_effects h with ⟨key, n, l, hi, hn, hnmax, hl, hlmax, ht⟩ | e | ⟨_, _, _, _, _, _, _, _, rfl⟩ |
    ⟨_, _, j, _, _, _, _, _, ⟨_, rfl⟩ | ⟨hraw, e⟩⟩
  · have hnlt := s.params.pwmPeriodMax.isLt
    have hllt := s.params.pwmLoopMax.isLt
    have hn' := toNat_ofNat_word (n := n) (by omega)
    have hl' := toNat_ofNat_word (n := l) (by omega)
    exact .inl ⟨key, _, _, hi, ⟨by omega, by omega⟩, ht⟩
  · rw [e]
    exact .inr ⟨⟨rfl, rfl, rfl, rfl, rfl, rfl⟩, .of_history_eq rfl⟩
  · exact .inr ⟨⟨rfl, rfl, rfl, rfl, rfl, rfl⟩, .of_history_eq rfl⟩
  · exact .inr ⟨⟨rfl, rfl, rfl, rfl, rfl, rfl⟩, .of_history_eq rfl⟩
  · rw [e]
    exact .inr ⟨⟨rfl, rfl, rfl, rfl, rfl, rfl⟩, _, rfl, historyPhase_servoOut j hraw⟩

/-- Everything a step can do to the sequencer: the acceptance of a tone, the capability's step, the completion step, a
reset, or nothing; a step that leaves a burst in flight alone leaves RESULT, LOOPS and CODE too. -/
inductive SequencerStep (s t : State) : Prop
  | accepts (w : Word) (key : BitVec 16) (r n : Word) (u : State) (writes : WritesCmd s w) (idle : s.seq = .idle)
      (decodes : decode w = .cmd (.tplay key)) (fits : BurstFits s.params r n) (history : u.history = s.history)
      (eq : t = playTone r n u)
  | raises (rest : List Turn) (turn : s.turns = .capability :: rest) (run : s.pwmRun = true) (done : s.pwmDone = false)
      (eq : t = { s with turns := rest, pwmDone := true, pwmRun := false })
  | completes (rest : List Turn) (turn : s.turns = .controller :: rest) (playing : s.seq = .playing)
      (done : s.pwmDone = true)
      (eq : t = { s with turns := rest, pwmClaim := false, history := s.history ++ [.pwmRelease], seq := .idle })
  | resets (u : State) (comes : ResetComes s) (seq : u.seq = s.seq) (history : u.history = s.history)
      (eq : t = applyReset u)
  | keeps (sequencer : KeepsSequencer s t) (phase : KeepsPhase s.seq.phase s t)
      (results : s.seq = .playing → t.result = s.result ∧ t.loops = s.loops ∧ t.code = s.code)

theorem step_sequencer {s t : State} (h : step s = .next t) : SequencerStep s t := by
  rcases step_effects h with ⟨rest, ops, w, ht, hp, hs, hi⟩ | ⟨_, _, _, _, _, _, rfl⟩ | ⟨_, _, _, _, _, rfl⟩ |
    ⟨_, _, _, _, _, _, _, _, _, rfl⟩ | e | ⟨rest, ht, hrun, hdone, e⟩ | ⟨rest, ht, hs, hdone, e⟩ | ⟨rest, p, ht, e⟩
  · have hplaying : s.seq = .playing → False := fun hp => by simp [hs] at hp
    rcases issueCmd_cases hi with ⟨_, rfl⟩ | ⟨i, hd, hx⟩
    · exact .keeps ⟨rfl, rfl, rfl, rfl, rfl, rfl⟩ (.of_history_eq rfl) fun hp => (hplaying hp).elim
    · rcases exec_sequencer hx with ⟨key, r, n, rfl, hfits, e⟩ | ⟨⟨h1, h2, h3, h4, h5, h6⟩, hphase⟩
      · exact .accepts w key r n { s with turns := rest, prog := ops, resp := some .okWrite }
          ⟨rest, ops, ht, hp⟩ hs hd hfits rfl e
      · exact .keeps ⟨h1, h2, h3, h4, h5, h6⟩ (by rw [hs]; exact hphase) fun hp => (hplaying hp).elim
  · exact .keeps ⟨rfl, rfl, rfl, rfl, rfl, rfl⟩ (.of_history_eq rfl) fun _ => ⟨rfl, rfl, rfl⟩
  · exact .keeps ⟨rfl, rfl, rfl, rfl, rfl, rfl⟩ (.of_history_eq rfl) fun _ => ⟨rfl, rfl, rfl⟩
  · exact .keeps ⟨rfl, rfl, rfl, rfl, rfl, rfl⟩ (.of_history_eq rfl) fun _ => ⟨rfl, rfl, rfl⟩
  · rw [e]
    exact .keeps ⟨rfl, rfl, rfl, rfl, rfl, rfl⟩ (.of_history_eq rfl) fun _ => ⟨rfl, rfl, rfl⟩
  · exact .raises rest ht hrun hdone e
  · exact .completes rest ht hs hdone e
  · exact .resets { s with turns := rest, prog := p } ⟨rest, ht⟩ rfl rfl e

/-- Settles O35: of the five kinds of step only the acceptance, the completion and a reset move the sequencer. -/
theorem sequencerMovesOnlyByRule : Obligations.SequencerMovesOnlyByRule := by
  unfold Obligations.SequencerMovesOnlyByRule
  intro s t h hne
  cases step_sequencer h with
  | accepts w key r n u writes idle decodes fits history eq =>
    obtain ⟨rest, ops, ht, hp⟩ := writes
    subst eq
    exact .inl ⟨idle, rfl, rfl, rest, ops, w, key, ht, hp, decodes⟩
  | raises rest turn run done eq => subst eq; exact absurd rfl hne
  | completes rest turn playing done eq => subst eq; exact .inr ⟨playing, rfl, rest, .inl ⟨turn, done⟩⟩
  | resets u comes seq history eq =>
    obtain ⟨rest, ht⟩ := comes
    subst eq
    have hplaying : s.seq = .playing := by
      rcases hs : s.seq with _ | _
      · exact absurd hs hne
      · rfl
    exact .inr ⟨hplaying, rfl, rest, .inr ht⟩
  | keeps sequencer phase results => exact absurd sequencer.seq.symm hne

/-- Settles O60: each kind of step writes the interface as the clauses say. -/
theorem capabilityStateHasOnlyItsWriters : Obligations.CapabilityStateHasOnlyItsWriters := by
  unfold Obligations.CapabilityStateHasOnlyItsWriters
  intro s t h
  cases step_sequencer h with
  | accepts w key r n u writes idle decodes fits history eq =>
    subst eq
    have haccepts : AcceptsTone s (playTone r n u) := ⟨idle, rfl, rfl, w, key, writes, decodes⟩
    exact ⟨fun _ => .inl ⟨haccepts, rfl, rfl⟩, fun _ => .inl ⟨haccepts, rfl⟩, fun _ _ => haccepts,
      fun _ hstop => (by cases hstop), fun _ hraise => (by cases hraise), fun _ _ => .inr haccepts⟩
  | raises rest turn run done eq =>
    subst eq
    exact ⟨fun hne => (by simp at hne), fun hne => (by simp at hne), fun hstop _ => (by simp [run] at hstop),
      fun _ _ => .inr ⟨done, rfl, rest, turn⟩, fun _ _ => .inr ⟨run, rfl, rest, turn⟩,
      fun hdone _ => (by simp [done] at hdone)⟩
  | completes rest turn playing done eq =>
    subst eq
    exact ⟨fun hne => (by simp at hne), fun _ => .inr (.inr ⟨rfl, playing, done, rest, turn⟩),
      fun hstop hrun => (by simp [hstop] at hrun), fun hrun hstop => (by simp [hrun] at hstop),
      fun hdone hraise => (by simp [hdone] at hraise), fun hdone hclear => (by simp [hdone] at hclear)⟩
  | resets u comes seq history eq =>
    subst eq
    exact ⟨fun _ => .inr ⟨comes, rfl, rfl⟩, fun _ => .inr (.inl ⟨comes, rfl⟩), fun _ hrun => (by cases hrun),
      fun _ _ => .inl comes, fun _ _ => .inl comes, fun _ _ => .inl comes⟩
  | keeps sequencer phase results =>
    obtain ⟨_, hclaim, hperiod, hloops, hrun, hdone⟩ := sequencer
    rw [hclaim, hperiod, hloops, hrun, hdone]
    exact ⟨fun hne => (by simp at hne), fun hne => absurd rfl hne, fun h0 h1 => (by simp [h0] at h1),
      fun h1 h0 => (by simp [h1] at h0), fun h0 h1 => (by simp [h0] at h1), fun h1 h0 => (by simp [h1] at h0)⟩

/-! #### The invariant (10_state.md R33, R34; 41_tone.md R130, R134 to R138) -/

/-- The phase of the history after a reset is released, from either phase (10_state.md R40). -/
theorem historyPhase_resetEvents (q : Seq) : historyPhase q.phase q.resetEvents = some .released := by
  cases q <;> rfl

/-- The claim and the start of a burst that fits lead from released to started (41_tone.md R131). -/
theorem historyPhase_start {p : Params} {r n : Word} (h : BurstFits p r n) :
    historyPhase .released [.pwmClaim, .pwmStart r n] = some .started := by
  have hr : r ≠ 0#32 := fun h0 => h.period.1 (by simp [h0])
  have hn : n ≠ 0#32 := fun h0 => h.loops.1 (by simp [h0])
  simp [hr, hn]

/-- A history in order stays so where what is appended leads on from the sequencer's phase. -/
theorem HistoryMatchesSeq.append {s t : State} {es : List Event} (h : HistoryMatchesSeq s)
    (hes : t.history = s.history ++ es) (hphase : historyPhase s.seq.phase es = some t.seq.phase) :
    HistoryMatchesSeq t := by
  rw [HistoryMatchesSeq, hes, historyPhase_append, h, Option.bind_some, hphase]

/-- The parts of the invariant that are about the sequencer and the burst. -/
structure BurstInv (s : State) : Prop where
  claim : ClaimMatchesSeq s
  capability : CapabilityMatchesSeq s
  burst : BurstIsLegal s
  history : HistoryMatchesSeq s

theorem Inv.burstInv {s : State} (h : Inv s) : BurstInv s :=
  ⟨h.claim, h.capability, h.burst, h.history⟩

/-- An IDLE state with the channel released and the capability stopped. -/
theorem BurstInv.of_idle {s : State} (hs : s.seq = .idle) (hclaim : s.pwmClaim = false) (hrun : s.pwmRun = false)
    (hhist : HistoryMatchesSeq s) : BurstInv s where
  claim := by simp [ClaimMatchesSeq, hs, hclaim]
  capability := ⟨fun _ => hrun, fun hp => by simp [hs] at hp⟩
  burst := fun hp => by simp [hs] at hp
  history := hhist

theorem step_burstInv {s t : State} (hinv : BurstInv s) (h : step s = .next t) : BurstInv t := by
  have hparams := step_params h
  cases step_sequencer h with
  | accepts w key r n u writes idle decodes fits history eq =>
    subst eq
    have hphase : historyPhase s.seq.phase [.pwmClaim, .pwmStart r n] = some .started := by
      rw [idle]; exact historyPhase_start fits
    exact {
      claim := by simp [ClaimMatchesSeq]
      capability := by simp [CapabilityMatchesSeq]
      burst := fun _ => ⟨by rw [hparams]; exact fits.period, by rw [hparams]; exact fits.loops, rfl, rfl, rfl⟩
      history := hinv.history.append (by rw [playTone_history, history, List.append_assoc]; rfl) hphase }
  | raises rest turn run done eq =>
    subst eq
    exact {
      claim := hinv.claim
      capability := ⟨fun _ => rfl, fun _ => rfl⟩
      burst := hinv.burst
      history := hinv.history }
  | completes rest turn playing done eq =>
    subst eq
    have hrun : s.pwmRun = false := by simpa [done] using hinv.capability.2 playing
    exact .of_idle rfl rfl hrun (hinv.history.append rfl (by rw [playing]; rfl))
  | resets u comes seq history eq =>
    subst eq
    refine .of_idle rfl rfl rfl (hinv.history.append (es := s.seq.resetEvents) ?_ (historyPhase_resetEvents s.seq))
    rw [applyReset_history, resetHistory_eq, history, seq]
  | keeps sequencer phase results =>
    obtain ⟨hseq, hclaim, hperiod, hloops, hrun, hdone⟩ := sequencer
    obtain ⟨es, hes, hphase⟩ := phase
    exact {
      claim := by rw [ClaimMatchesSeq, hseq, hclaim]; exact hinv.claim
      capability := by rw [CapabilityMatchesSeq, hseq, hrun, hdone]; exact hinv.capability
      burst := fun hp => by
        rw [hseq] at hp
        obtain ⟨hr, hl, hc⟩ := results hp
        rw [hperiod, hloops, hparams, hr, hl, hc]
        exact hinv.burst hp
      history := hinv.history.append hes (by rw [hseq]; exact hphase) }

/-- Settles O39: the parameters are fixed, the table keeps its range, and the burst's part goes by the kinds of step. -/
theorem stepKeepsInv : Obligations.StepKeepsInv := by
  unfold Obligations.StepKeepsInv
  intro s t hinv h
  obtain ⟨hclaim, hcap, hburst, hhist⟩ := step_burstInv hinv.burstInv h
  exact ⟨by rw [step_params h]; exact hinv.params, step_tableInRange h hinv.table, hclaim, hcap, hburst, hhist⟩

theorem powerUp_inv {p : Params} (hp : p.inRange = true) : Inv (State.powerUp p) := by
  obtain ⟨hclaim, hcap, hburst, hhist⟩ : BurstInv (State.powerUp p) := .of_idle rfl rfl rfl rfl
  have htable : TableInRange (State.powerUp p) := fun i m hm => by simp [State.powerUp] at hm
  exact ⟨hp, htable, hclaim, hcap, hburst, hhist⟩

/-- Settles O40: an IDLE state with an empty table and the one event Reset. -/
theorem powerUpMeetsInv : Obligations.PowerUpMeetsInv := by
  unfold Obligations.PowerUpMeetsInv
  exact ⟨fun p hp => powerUp_inv hp, powerUp_inv (by decide)⟩

/-! #### A burst completes (41_tone.md R140) -/

/-- No command touches the interleaving. -/
theorem exec_turns {i : Instr} {s t : State} (h : exec i s = .next t) : t.turns = s.turns := by
  obtain ⟨e, he⟩ := exec_reads i s
  cases h.symm.trans (he s ⟨rfl, rfl, rfl⟩)
  cases e <;> rfl

theorem hostStep_turns {s t : State} (h : hostStep s = .next t) : t.turns = s.turns := by
  rcases hostStep_cases h with ⟨_, rfl⟩ | ⟨off, size, ops, _, rfl⟩ | ⟨_, _, _, _, _, _, rfl⟩ |
    ⟨_, _, _, _, _, _, hw⟩ | ⟨_, _, rfl⟩
  · rfl
  · exact (hostRead_keepsBurst off size _).turns
  · rfl
  · rcases writeWindow_cases hw with ⟨_, _, rfl⟩ | ⟨_, _, hi⟩ | ⟨_, rfl⟩ | ⟨_, rfl⟩ | ⟨_, rfl⟩
    · rfl
    · rcases issueCmd_cases hi with ⟨_, rfl⟩ | ⟨_, _, hx⟩
      · rfl
      · exact (exec_turns hx).trans rfl
    · rfl
    · rfl
    · rfl
  · rw [pollIdle_eq]

/-- A step takes its turn off the interleaving (20_memory.md R59). -/
theorem step_turns {s t : State} (h : step s = .next t) : t.turns = s.turns.tail := by
  rcases step_cases h with ⟨ht, rfl⟩ | ⟨rest, ht, hh⟩ | ⟨rest, ht, rfl⟩ | ⟨rest, ht, rfl⟩ | ⟨rest, ht, rfl⟩ |
    ⟨rest, ht, rfl⟩
  · simp [ht]
  · rw [hostStep_turns hh, ht]; rfl
  · rcases capabilityStep_cases { s with turns := rest } with ⟨_, _, e⟩ | ⟨_, e⟩ <;> rw [e, ht] <;> rfl
  · rcases completionStep_cases { s with turns := rest } with ⟨_, _, e⟩ | ⟨_, e⟩ <;> rw [e, ht] <;> rfl
  · rw [applyReset_turns, ht]; rfl
  · rw [resetOverAccess, applyReset_turns, ht]; rfl

/-- Within `n` steps the burst has completed and released the channel. -/
def CompletesWithin (n : Nat) (s : State) : Prop :=
  ∃ (k : Nat) (t : State), k ≤ n ∧ run k s = .next t ∧ t.seq = .idle ∧
    ∃ es, t.history = s.history ++ es ∧ .pwmRelease ∈ es

/-- The completion step itself. -/
theorem completesWithin_of_release {s t : State} (h : step s = .next t) (hs : t.seq = .idle)
    (hh : t.history = s.history ++ [.pwmRelease]) (n : Nat) : CompletesWithin (n + 1) s :=
  ⟨1, t, by omega, run_succ h 0, hs, _, hh, by simp⟩

/-- A step before, which appends to the history. -/
theorem CompletesWithin.of_step {n : Nat} {s t : State} {es : List Event} (h : step s = .next t)
    (hes : t.history = s.history ++ es) (hn : CompletesWithin n t) : CompletesWithin (n + 1) s := by
  obtain ⟨k, u, hk, hrun, hs, es', hes', hmem⟩ := hn
  refine ⟨k + 1, u, by omega, (run_succ h k).trans hrun, hs, es ++ es', ?_, by simp [hmem]⟩
  rw [hes', hes, List.append_assoc]

/-- A step of a burst in flight that is no reset goes on with the burst, its flag only raised, or completes it. -/
theorem step_of_playing {s t : State} (h : step s = .next t) (hs : s.seq = .playing) (hr : ¬ResetComes s) :
    (t.seq = .playing ∧ (s.pwmDone = true → t.pwmDone = true) ∧ ∃ es, t.history = s.history ++ es) ∨
    (t.seq = .idle ∧ t.history = s.history ++ [.pwmRelease]) := by
  cases step_sequencer h with
  | accepts w key r n u writes idle decodes fits history eq => simp [hs] at idle
  | raises rest turn run done eq => subst eq; exact .inl ⟨hs, fun _ => rfl, [], by simp⟩
  | completes rest turn playing done eq => subst eq; exact .inr ⟨rfl, rfl⟩
  | resets u comes seq history eq => exact absurd comes hr
  | keeps sequencer phase results =>
    obtain ⟨es, hes, _⟩ := phase
    exact .inl ⟨sequencer.seq.trans hs, fun hd => sequencer.done.trans hd, es, hes⟩

/-- Turns that are no reset end the burst or leave it in flight, with the flag only raised. -/
theorem completesWithin_of_turns {rest : List Turn} {n : Nat} (l : List Turn) {s : State} (hinv : Inv s)
    (hs : s.seq = .playing) (ht : s.turns = l ++ rest) (hl : ∀ u ∈ l, u ≠ .reset ∧ u ≠ .resetOverAccess)
    (hrest : ∀ u, Inv u → u.seq = .playing → u.turns = rest → (s.pwmDone = true → u.pwmDone = true) →
      CompletesWithin (n + 1) u) : CompletesWithin (l.length + (n + 1)) s := by
  induction l generalizing s with
  | nil => rw [List.length_nil, Nat.zero_add]; exact hrest s hinv hs ht id
  | cons a l ih =>
    obtain ⟨t, hstep⟩ := step_total s
    have hr : ¬ResetComes s := by
      obtain ⟨hne, hne'⟩ := hl a (by simp)
      rintro ⟨rest', hr | hr⟩ <;> simp_all
    rw [List.length_cons, Nat.add_right_comm]
    rcases step_of_playing hstep hs hr with ⟨hs', hdone, es, hes⟩ | ⟨hs', hes⟩
    · refine .of_step hstep hes (ih (stepKeepsInv s t hinv hstep) hs' (by rw [step_turns hstep, ht]; rfl)
        (fun u hu => hl u (by simp [hu])) fun u hu hp hturns hd => hrest u hu hp hturns (hd ∘ hdone))
    · exact completesWithin_of_release hstep hs' hes _

/-- After the capability's turn of a burst in flight the flag is raised (41_tone.md R134, R135). -/
theorem step_capability_of_playing {s : State} {rest : List Turn} (hinv : Inv s) (hs : s.seq = .playing)
    (ht : s.turns = .capability :: rest) :
    ∃ t, step s = .next t ∧ t.seq = .playing ∧ t.pwmDone = true ∧ t.turns = rest ∧ t.history = s.history := by
  have hcap := hinv.capability.2 hs
  rcases hdone : s.pwmDone with _ | _
  · exact ⟨_, step_capability ht (by simpa [hdone] using hcap) hdone, hs, rfl, rfl, rfl⟩
  · have hstopped : s.pwmRun = false := by simpa [hdone] using hcap
    refine ⟨{ s with turns := rest }, ?_, hs, hdone, rfl, rfl⟩
    rw [step_of_turn ht, takeTurn, capabilityStep_of_stopped (by exact hstopped)]

/-- Settles O36: turns before the capability's, its turn, turns before the controller's, and the completion step. -/
theorem burstCompletes : Obligations.BurstCompletes := by
  unfold Obligations.BurstCompletes
  intro s before between after hinv hs ht hno
  have hcontroller (u : State) (_ : Inv u) (hu : u.seq = .playing) (hturns : u.turns = .controller :: after)
      (hdone : u.pwmDone = true) : CompletesWithin (0 + 1) u :=
    completesWithin_of_release (step_completion hturns hu hdone) rfl rfl 0
  have hcapability (u : State) (hu : Inv u) (hp : u.seq = .playing)
      (hturns : u.turns = .capability :: (between ++ .controller :: after)) :
      CompletesWithin (between.length + (0 + 1) + 1) u := by
    obtain ⟨v, hstep, hv, hdone, hturns', hh⟩ := step_capability_of_playing hu hp hturns
    refine .of_step (es := []) hstep (by simpa using hh)
      (completesWithin_of_turns between (stepKeepsInv u v hu hstep) hv hturns' ?_ ?_)
    · exact fun x hx => hno x (by simp [hx])
    · exact fun x hx hxp hxt hxd => hcontroller x hx hxp hxt (hxd hdone)
  obtain ⟨k, t, hk, hrest⟩ := completesWithin_of_turns before hinv hs ht (fun x hx => hno x (by simp [hx]))
    fun u hu hp hturns _ => hcapability u hu hp hturns
  exact ⟨k, t, by omega, hrest⟩

end Sys2Proof.Machine

/-! ### Proofs of the family of the remaining statements: the fault mark and the flags -/

namespace Sys2Proof.Machine

/-! #### The fault mark (60_exceptions.md R165) -/

/-- An SSCL that ends in ERR_INTERNAL passed its check on the angle (40_servo.md R104). -/
theorem le_angleMax_of_internal {s t : State} {ch : BitVec 8} {val : BitVec 16} {i : Slot} (hch : ch.toNat = i.val + 1)
    (h : execSscl ch val s = .next t) (hcode : t.code = .internal) : val.toNat ≤ 359 := by
  by_contra hval
  cases h.symm.trans (execSscl_of_invalidAngle (slotOf_eq_some.2 hch) (Nat.lt_of_not_le hval))
  cases hcode

/-- The command is the SSCL of 40_servo.md R106, whose scaled angle exceeds 180. -/
def BreaksScale (i : Instr) (s : State) : Prop :=
  ∃ (ch : BitVec 8) (val : BitVec 16) (j : Slot) (m : MaxAngle), i = .sscl ch val ∧ ch.toNat = j.val + 1 ∧
    val.toNat ≤ 359 ∧ s.cfg[j] = some m ∧ val.toNat ≤ m.toNat ∧ 180 < scaleAngle val.toNat m.toNat

/-- A command leaves the fault mark, but for that SSCL. -/
theorem exec_fault {i : Instr} {s t : State} (h : exec i s = .next t) :
    t.fault = s.fault ∨ (BreaksScale i s ∧ t.fault = some .scaleInvariant) := by
  rcases exec_effects h with ⟨_, _, _, _, _, _, _, _, rfl⟩ | e | ⟨_, _, _, _, _, _, _, _, rfl⟩ |
    ⟨ch, val, j, m, rfl, hch, hm, hle, ⟨hgt, rfl⟩ | ⟨_, e⟩⟩
  · exact .inl (playTone_fault _ _ s)
  · exact .inl (by rw [e])
  · exact .inl rfl
  · exact .inr ⟨⟨ch, val, j, m, rfl, hch, le_angleMax_of_internal hch h rfl, hm, hle, hgt⟩, rfl⟩
  · exact .inl (by rw [e])

/-- What that SSCL does: the mark and CODE, nothing else. -/
theorem exec_of_breaksScale {i : Instr} {s : State} (h : BreaksScale i s) :
    exec i s = .next { s with fault := some .scaleInvariant, code := .internal } := by
  obtain ⟨ch, val, j, m, rfl, hch, hval, hm, hle, hgt⟩ := h
  exact (execSscl_of_le_max (slotOf_eq_some.2 hch) hval hm hle).trans (deliverAngle_of_gt hgt)

/-- The case of R165 that is about a command, by its command. -/
theorem raisesFault_scaleInvariant_iff {s : State} :
    RaisesFault s .scaleInvariant ↔ ∃ w i, WritesCmd s w ∧ s.seq = .idle ∧ decode w = .cmd i ∧ BreaksScale i s := by
  constructor
  · rintro ⟨w, ch, val, j, m, hw, hs, hd, hrest⟩
    exact ⟨w, _, hw, hs, hd, ch, val, j, m, rfl, hrest⟩
  · rintro ⟨w, _, hw, hs, hd, ch, val, j, m, rfl, hrest⟩
    exact ⟨w, ch, val, j, m, hw, hs, hd, hrest⟩

/-- A step leaves the mark or is one of the cases of R165, which sets it to its reason. -/
theorem step_fault {s t : State} (h : step s = .next t) :
    t.fault = s.fault ∨ ∃ r, RaisesFault s r ∧ t.fault = some r := by
  rcases step_effects h with ⟨rest, ops, w, ht, hp, hs, hi⟩ | ⟨rest, ops, w, ht, hp, hs, rfl⟩ | ⟨_, _, _, _, _, rfl⟩ |
    ⟨rest, ops, op, off, size, ht, hp, hop, hbad, rfl⟩ | e | ⟨_, _, _, _, rfl⟩ | ⟨_, _, _, _, rfl⟩ | ⟨_, _, _, rfl⟩
  · rcases issueCmd_cases hi with ⟨_, rfl⟩ | ⟨i, hd, hx⟩
    · exact .inl rfl
    · rcases exec_fault hx with hf | ⟨hbreaks, hf⟩
      · exact .inl (hf.trans rfl)
      · exact .inr ⟨_, raisesFault_scaleInvariant_iff.2 ⟨w, i, ⟨rest, ops, ht, hp⟩, hs, hd, hbreaks⟩, hf⟩
  · exact .inr ⟨.overrun w, ⟨⟨rest, ops, ht, hp⟩, hs⟩, rfl⟩
  · exact .inl rfl
  · refine .inr ⟨.badAccess off size, ⟨rest, ops, ht, ?_, hbad⟩, rfl⟩
    rcases hop with rfl | ⟨w, rfl⟩
    · exact .inl hp
    · exact .inr ⟨w, hp⟩
  · exact .inl (by rw [e])
  · exact .inl rfl
  · exact .inl rfl
  · exact .inl rfl

/-- The step of the case of R165 that is about a command. -/
theorem step_of_scaleInvariant {s t : State} (h : step s = .next t) (hr : RaisesFault s .scaleInvariant) :
    t.fault = some .scaleInvariant ∧ t.code = .internal ∧ t.result = s.result ∧ t.history = s.history := by
  obtain ⟨w, i, ⟨rest, ops, ht, hp⟩, hs, hd, hbreaks⟩ := raisesFault_scaleInvariant_iff.1 hr
  have hstep := (step_exec ht hp hs hd).trans (exec_of_breaksScale (by exact hbreaks))
  cases h.symm.trans hstep
  exact ⟨rfl, rfl, rfl, rfl⟩

/-- Each case of R165 sets the mark to its reason. -/
theorem step_of_raisesFault {s t : State} (h : step s = .next t) {r : Fault} (hr : RaisesFault s r) :
    t.fault = some r := by
  cases r with
  | badAccess off size =>
    obtain ⟨rest, ops, ht, hp, hbad⟩ := hr
    have ha := admitted_eq_false_iff.2 hbad
    rcases hp with hp | ⟨w, hp⟩
    · cases h.symm.trans (step_of_not_admitted (w := 0#32) ht (.inl hp) ha); rfl
    · cases h.symm.trans (step_of_not_admitted ht (.inr hp) ha); rfl
  | overrun w =>
    obtain ⟨⟨rest, ops, ht, hp⟩, hs⟩ := hr
    cases h.symm.trans (step_overrun ht hp hs); rfl
  | scaleInvariant => exact (step_of_scaleInvariant h hr).1

/-- Settles O41: a step that changes the mark is one of the cases, and each case sets it; none clears it. -/
theorem faultsAreExactlyThese : Obligations.FaultsAreExactlyThese := by
  unfold Obligations.FaultsAreExactlyThese
  intro s t h
  refine ⟨fun hne => ?stays, step_fault h, fun r hr => ?sets, fun hr => (step_of_scaleInvariant h hr).2⟩
  case stays =>
    rcases step_fault h with hf | ⟨r, _, hf⟩
    · rwa [hf]
    · simp [hf]
  case sets => simp [step_of_raisesFault h hr]

/-- Settles O43: the busy check turns the write into an overrun (60_exceptions.md R163). -/
theorem overrunIssuesNothing : Obligations.OverrunIssuesNothing := by
  unfold Obligations.OverrunIssuesNothing
  intro s rest ops w ht hp hs
  exact ⟨.overrun w, fun _ => rfl, step_overrun ht hp hs⟩

/-! #### OVR and CODE (10_state.md R39) -/

/-- Neither OVR nor ARG is any command's to write. -/
theorem exec_ovr_arg {i : Instr} {s t : State} (h : exec i s = .next t) : t.ovr = s.ovr ∧ t.arg = s.arg := by
  obtain ⟨e, he⟩ := exec_reads i s
  cases h.symm.trans (he s ⟨rfl, rfl, rfl⟩)
  cases e <;> exact ⟨rfl, rfl⟩

theorem issueCmd_ovr {w : Word} {s t : State} (h : issueCmd w s = .next t) : t.ovr = s.ovr := by
  rcases issueCmd_cases h with ⟨_, rfl⟩ | ⟨_, _, hx⟩
  · rfl
  · exact (exec_ovr_arg hx).1

/-- Everything a step can do to OVR: nothing, an overrun, a STATUS write, or a reset. -/
theorem step_ovr {s t : State} (h : step s = .next t) :
    t.ovr = s.ovr ∨ (s.seq = .playing ∧ t.ovr = true ∧ ∃ w, WritesCmd s w) ∨
    (t.ovr = false ∧
      ∃ rest ops w, s.turns = .host :: rest ∧ s.prog = .write 0x08#6 4 w :: ops ∧ w.getLsbD 1 = true) ∨
    (t.ovr = false ∧ ResetComes s) := by
  rcases step_effects h with ⟨_, _, _, _, _, _, hi⟩ | ⟨rest, ops, w, ht, hp, hs, rfl⟩ | ⟨rest, ops, w, ht, hp, rfl⟩ |
    ⟨_, _, _, _, _, _, _, _, _, rfl⟩ | e | ⟨_, _, _, _, rfl⟩ | ⟨_, _, _, _, rfl⟩ | ⟨rest, _, ht, rfl⟩
  · exact .inl ((issueCmd_ovr hi).trans rfl)
  · exact .inr (.inl ⟨hs, rfl, w, rest, ops, ht, hp⟩)
  · rcases hw : w.getLsbD 1 with _ | _
    · exact .inl (by rw [writeStatus_ovr, hw]; exact Bool.and_true _)
    · exact .inr (.inr (.inl ⟨by simp [hw], rest, ops, w, ht, hp, hw⟩))
  · exact .inl rfl
  · exact .inl (by rw [e])
  · exact .inl rfl
  · exact .inl rfl
  · exact .inr (.inr (.inr ⟨rfl, rest, ht⟩))

/-- CODE is left as it was but by an issued word and a reset. -/
theorem step_code {s t : State} (h : step s = .next t) :
    t.code = s.code ∨ (s.seq = .idle ∧ ∃ w, WritesCmd s w) ∨ ResetComes s := by
  rcases step_effects h with ⟨rest, ops, w, ht, hp, hs, _⟩ | ⟨_, _, _, _, _, _, rfl⟩ | ⟨_, _, _, _, _, rfl⟩ |
    ⟨_, _, _, _, _, _, _, _, _, rfl⟩ | e | ⟨_, _, _, _, rfl⟩ | ⟨_, _, _, _, rfl⟩ | ⟨rest, _, ht, _⟩
  · exact .inr (.inl ⟨hs, w, rest, ops, ht, hp⟩)
  · exact .inl rfl
  · exact .inl rfl
  · exact .inl rfl
  · exact .inl (by rw [e])
  · exact .inl rfl
  · exact .inl rfl
  · exact .inr (.inr ⟨rest, ht⟩)

/-- Settles O44: read off everything a step can do to OVR and to CODE. -/
theorem flagsHaveOnlyTheirWriters : Obligations.FlagsHaveOnlyTheirWriters := by
  unfold Obligations.FlagsHaveOnlyTheirWriters
  intro s t h
  refine ⟨fun h0 h1 => ?raised, fun h1 h0 => ?cleared, fun hne => ?code⟩
  case raised =>
    rcases step_ovr h with he | ⟨hs, _, w, rest, ops, ht, hp⟩ | ⟨hf, _⟩ | ⟨hf, _⟩
    · simp [he, h0] at h1
    · exact ⟨hs, rest, ops, w, ht, hp⟩
    · simp [hf] at h1
    · simp [hf] at h1
  case cleared =>
    rcases step_ovr h with he | ⟨_, hf, _⟩ | ⟨_, hw⟩ | ⟨_, hr⟩
    · simp [he, h1] at h0
    · simp [hf] at h0
    · exact .inl hw
    · exact .inr hr
  case code =>
    rcases step_code h with he | ⟨hs, w, rest, ops, ht, hp⟩ | hr
    · exact absurd he hne
    · exact .inl ⟨hs, rest, ops, w, ht, hp⟩
    · exact .inr hr

end Sys2Proof.Machine

/-! ### Proofs of the family of the remaining statements: the register window, power-up and reset -/

namespace Sys2Proof.Machine

/-! #### What each offset reads (10_state.md R20, R23, R31) -/

theorem readWindow_servo (i : Slot) (s : State) : readWindow (BitVec.ofNat 6 (0x20 + 4 * i.val)) s = servoWord i s := by
  fin_cases i <;> rfl

/-- Settles O50: each offset of a named register selects its own arm of the map. -/
theorem windowMapReads : Obligations.WindowMapReads := by
  unfold Obligations.WindowMapReads
  intro s
  exact ⟨rfl, rfl, rfl, rfl, rfl, rfl, rfl, rfl, fun i => readWindow_servo i s⟩

/-- BUSY as a bit of STATUS (10_state.md R23). -/
theorem statusWord_bit_busy (s : State) : (statusWord s).getLsbD 0 = true ↔ s.seq = .playing := by
  have hbusy : (statusWord s).getLsbD 0 = busy s := busyOfStatus_statusWord s
  rw [hbusy, busy]
  cases s.seq <;> simp

/-- STATUS bit by bit, its parts at their widths (10_state.md R23). -/
theorem statusWord_getLsbD (s : State) (j : Nat) :
    (statusWord s).getLsbD j =
      if j < 1 then (BitVec.ofBool (busy s)).getLsbD j
      else if j - 1 < 1 then (BitVec.ofBool s.ovr).getLsbD (j - 1)
      else if j - 1 - 1 < 6 then false
      else if j - 1 - 1 - 6 < 8 then (codeByte s.code).getLsbD (j - 1 - 1 - 6)
      else false := by
  have hparts : (statusWord s).getLsbD j =
      (0#16 ++ codeByte s.code ++ 0#6 ++ BitVec.ofBool s.ovr ++ BitVec.ofBool (busy s)).getLsbD j := rfl
  simp only [hparts, BitVec.getLsbD_append, BitVec.getLsbD_zero]

theorem statusWord_bit_ovr (s : State) : (statusWord s).getLsbD 1 = s.ovr := by
  rw [statusWord_getLsbD]
  simp

theorem statusWord_code (s : State) : (statusWord s).extractLsb' 8 8 = codeByte s.code := by
  have hovr := s.ovr.toNat_le
  have hbusy := (busy s).toNat_le
  have hcode := (codeByte s.code).isLt
  apply BitVec.eq_of_toNat_eq
  rw [BitVec.extractLsb'_toNat, statusWord_toNat, Nat.shiftRight_eq_div_pow]
  omega

/-- The reserved bits of STATUS read 0 (10_state.md R23). -/
theorem statusWord_bit_reserved (s : State) {j : Nat} (hlo : 2 ≤ j) (h : j ≤ 7 ∨ 16 ≤ j) :
    (statusWord s).getLsbD j = false := by
  rw [statusWord_getLsbD, if_neg (by omega), if_neg (by omega)]
  rcases h with h | h
  · rw [if_pos (by omega)]
  · rw [if_neg (by omega), if_neg (by omega)]

/-- The host's step of an admitted write (20_memory.md R54). -/
theorem step_write_admitted {s : State} {rest : List Turn} {ops : List HostOp} {off : Offset} {w : Word}
    (ht : s.turns = .host :: rest) (hp : s.prog = .write off 4 w :: ops) (hoff : off.toNat % 4 = 0) :
    step s = writeWindow off w { s with turns := rest, prog := ops, resp := some .okWrite } := by
  rw [step_write ht hp, hostWrite, if_pos (admitted_eq_true_iff.2 ⟨rfl, hoff⟩)]

/-- Settles O51: the fields one by one, and the STATUS write, which keeps OVR where its bit 1 is 0. -/
theorem statusLayoutAndClear : Obligations.StatusLayoutAndClear := by
  unfold Obligations.StatusLayoutAndClear
  intro s
  refine ⟨statusWord_bit_busy s, statusWord_bit_ovr s, statusWord_code s, fun _ => statusWord_bit_reserved s,
    fun rest ops w ht hp => ?clear⟩
  case clear =>
    have hovr : (s.ovr && !w.getLsbD 1) = if w.getLsbD 1 then false else s.ovr := by cases w.getLsbD 1 <;> simp
    rw [step_write_admitted ht hp rfl, ← hovr]
    rfl

theorem servoWord_of_empty {s : State} {i : Slot} (h : s.cfg[i] = none) : servoWord i s = 0#32 := by
  simp [servoWord, h]

/-- A filled view bit by bit, its parts at their widths (10_state.md R31). -/
theorem servoWord_getLsbD {s : State} {i : Slot} {m : MaxAngle} (h : s.cfg[i] = some m) (j : Nat) :
    (servoWord i s).getLsbD j =
      if j < 9 then m.getLsbD j else if j - 9 < 22 then false else (1#1).getLsbD (j - 9 - 22) := by
  have hparts : (servoWord i s).getLsbD j = (1#1 ++ 0#22 ++ m).getLsbD j := by simp only [servoWord, h]
  simp only [hparts, BitVec.getLsbD_append, BitVec.getLsbD_zero]

/-- Settles O52: the filled view is its three fields side by side. -/
theorem servoViewLayout : Obligations.ServoViewLayout := by
  unfold Obligations.ServoViewLayout
  intro s i
  refine ⟨servoWord_of_empty, fun m hm => ?_⟩
  refine ⟨servoWord_getLsbD hm 31, BitVec.eq_of_getLsbD_eq fun k hk => ?maximum, fun j hlo hhi => ?zero⟩
  case maximum => rw [BitVec.getLsbD_extractLsb', Nat.zero_add, servoWord_getLsbD hm, if_pos hk]; simp [hk]
  case zero => rw [servoWord_getLsbD hm, if_neg (by omega), if_pos (by omega)]

/-! #### Writes that issue no command (20_memory.md R54) -/

theorem writeWindow_of_readOnly {off : Offset} (h : 3 ≤ off.toNat / 4) (w : Word) (s : State) :
    writeWindow off w s = .next s := by
  unfold writeWindow
  split
  case h_4 => rfl
  all_goals omega

/-- Settles O53: from 0x0C on no slot acts on a write. -/
theorem readOnlySlotsIgnoreWrites : Obligations.ReadOnlySlotsIgnoreWrites := by
  unfold Obligations.ReadOnlySlotsIgnoreWrites
  intro s rest ops off w ht hp hoff hlo
  rw [step_write_admitted ht hp hoff, writeWindow_of_readOnly (by omega)]

/-- Settles O54: the ARG slot stores the word, and no effect of a command writes it. -/
theorem argHoldsDuration : Obligations.ArgHoldsDuration := by
  unfold Obligations.ArgHoldsDuration
  refine ⟨fun s rest ops w ht hp => ?_, fun i s t h => (exec_ovr_arg h).2, fun _ => rfl⟩
  exact ⟨_, step_write_admitted ht hp rfl, rfl, rfl⟩

/-- Settles O57: a poll reads STATUS, and the sequencer's state decides whether the host goes on. -/
theorem waitidlePollsStatus : Obligations.WaitidlePollsStatus := by
  unfold Obligations.WaitidlePollsStatus
  intro s rest ops ht hp
  refine ⟨fun hs => step_poll_idle hs ht hp, fun hs => ?_⟩
  rw [step_poll_playing hs ht hp, ← hp]
  rfl

/-- Settles O59: the offset is the address's distance from BASE, which fits its 6 bits inside the window alone. -/
theorem busAddressSelectsOffset : Obligations.BusAddressSelectsOffset := by
  unfold Obligations.BusAddressSelectsOffset
  intro p off addr
  have hoff := off.isLt
  refine ⟨?selects, fun hout => if_neg (by simp only [Config.windowBytes]; omega)⟩
  case selects =>
    unfold windowOffset busAddress
    split
    · next hin =>
      simp only [Config.windowBytes] at hin
      rw [Option.some.injEq, ← BitVec.toNat_inj, BitVec.toNat_ofNat]
      omega
    · next hout =>
      simp only [Config.windowBytes] at hout
      simp only [reduceCtorEq, false_iff]
      omega

/-! #### Power-up and reset (10_state.md R40, 70_reset_and_hazards.md R180 to R184) -/

/-- A state whose registers are all at their reset values. -/
structure RegistersReset (s : State) : Prop where
  arg : s.arg = 0#32
  ovr : s.ovr = false
  code : s.code = .ok
  result : s.result = 0#32
  loops : s.loops = 0#32
  errval : s.errval = 0#32
  cfg : ∀ i : Slot, s.cfg[i] = none
  seq : s.seq = .idle

theorem RegistersReset.statusWord {s : State} (h : RegistersReset s) : statusWord s = 0#32 := by
  simp only [Machine.statusWord, busy, h.code, h.ovr, h.seq]
  rfl

/-- Every offset but TICKFREQ reads 0 there (10_state.md R40). -/
theorem RegistersReset.readWindow {s : State} (h : RegistersReset s) {off : Offset} (hoff : off.toNat / 4 ≠ 6) :
    readWindow off s = 0#32 := by
  unfold Machine.readWindow
  split
  case h_7 => contradiction
  all_goals simp only [h.arg, h.statusWord, h.result, h.loops, h.errval, servoWord_of_empty (h.cfg _)]

theorem readWindow_of_tickfreq {off : Offset} (hoff : off.toNat / 4 = 6) (s : State) :
    readWindow off s = s.params.tickFreq := by
  simp [readWindow, hoff]

theorem powerUp_registersReset (p : Params) : RegistersReset (State.powerUp p) :=
  ⟨rfl, rfl, rfl, rfl, rfl, rfl, fun i => by simp [State.powerUp], rfl⟩

theorem applyReset_registersReset (s : State) : RegistersReset (applyReset s) :=
  ⟨rfl, rfl, rfl, rfl, rfl, rfl, fun i => by simp, rfl⟩

/-- Settles O31: the registers are those of power-up, and the history ends with the reset's events. -/
theorem resetGivesResetState : Obligations.ResetGivesResetState := by
  unfold Obligations.ResetGivesResetState
  intro s rest ht
  have hreset := applyReset_registersReset { s with turns := rest }
  have hhist (q : Seq) (hs : s.seq = q) : (applyReset { s with turns := rest }).history = s.history ++ q.resetEvents :=
    hs ▸ resetHistory_eq { s with turns := rest }
  exact ⟨_, step_of_turn ht, rfl, rfl, rfl, rfl, rfl, rfl, rfl, hreset.cfg, rfl, rfl, rfl, rfl, rfl, rfl, hhist .idle,
    hhist .playing, fun off hoff => hreset.readWindow hoff, fun off hoff => readWindow_of_tickfreq hoff _⟩

/-- A reset over an access is the reset from the state that has lost it (60_exceptions.md R164). -/
theorem step_resetOverAccess {s : State} {rest : List Turn} {ops : List HostOp}
    (ht : s.turns = .resetOverAccess :: rest) (hlost : loseAccess s.prog = ops) :
    step s = step { s with turns := .reset :: rest, prog := ops } ∧
    ∃ t, step s = .next t ∧ t.prog = ops ∧ t.turns = rest := by
  subst hlost
  exact ⟨step_of_turn ht, _, step_of_turn ht, rfl, rfl⟩

/-- Settles O32: what `loseAccess` takes off the host's list, by the access at its head. -/
theorem resetLosesAccess : Obligations.ResetLosesAccess := by
  unfold Obligations.ResetLosesAccess
  intro s rest ops ht
  refine ⟨fun off size w hp => ?access, fun hp => ?kept⟩
  case access =>
    rcases hp with hp | hp
    · exact step_resetOverAccess ht (by rw [hp]; rfl)
    · exact step_resetOverAccess ht (by rw [hp]; rfl)
  case kept =>
    rcases hp with hp | hp
    · exact step_resetOverAccess (ops := s.prog) ht (by rw [hp]; rfl)
    · exact step_resetOverAccess (ops := s.prog) ht (by rw [hp]; rfl)

theorem powerUp_cleanEntry {p : Params} (hp : p.inRange = true) : CleanEntry (State.powerUp p) :=
  ⟨hp, rfl, rfl, rfl, rfl, rfl, rfl, (powerUp_registersReset p).cfg, rfl, rfl, rfl, rfl, rfl, rfl, rfl, rfl⟩

/-- Settles O33: field by field from the definition, and the window from the registers. -/
theorem powerUpIsCleanEntry : Obligations.PowerUpIsCleanEntry := by
  unfold Obligations.PowerUpIsCleanEntry
  refine ⟨?fields, powerUp_cleanEntry (by decide)⟩
  case fields =>
    rintro p _ rfl
    have hreset := powerUp_registersReset p
    exact ⟨rfl, rfl, rfl, rfl, rfl, rfl, rfl, hreset.cfg, rfl, rfl, rfl, rfl, rfl, rfl, rfl,
      fun off hoff => hreset.readWindow hoff, fun off hoff => readWindow_of_tickfreq hoff _, powerUp_cleanEntry⟩

/-! #### Turns that are not enabled, operands and codes (log entry 5; 40_servo.md R100; 60_exceptions.md R160) -/

theorem capabilityStep_of_disabled {s : State} (h : s.pwmRun = false ∨ s.pwmDone = true) : capabilityStep s = s :=
  if_neg fun ⟨hrun, hdone⟩ => by rcases h with h | h <;> simp_all

theorem completionStep_of_disabled {s : State} (h : s.seq = .idle ∨ s.pwmDone = false) : completionStep s = s :=
  if_neg fun ⟨hs, hdone⟩ => by rcases h with h | h <;> simp_all

theorem hostStep_of_no_access {s : State} (h : s.prog = []) : hostStep s = .next s := by
  simp [hostStep, h]

/-- Settles O30: each disabled step is the state itself, its turn taken. -/
theorem disabledTurnsChangeNothing : Obligations.DisabledTurnsChangeNothing := by
  unfold Obligations.DisabledTurnsChangeNothing
  intro s rest
  refine ⟨fun ht h => ?capability, fun ht h => ?controller, fun ht hp => ?host, step_of_no_turn⟩
  case capability => rw [step_of_turn ht, takeTurn, capabilityStep_of_disabled (by exact h)]
  case controller => rw [step_of_turn ht, takeTurn, completionStep_of_disabled (by exact h)]
  case host => rw [step_of_turn ht, takeTurn, hostStep_of_no_access (by exact hp)]

theorem channelOf_toNat (i : Slot) : (channelOf i).toNat = i.val + 1 := by
  have hi : i.val < 8 := i.isLt
  rw [channelOf, BitVec.toNat_ofNat]
  omega

theorem slotOf_channelOf (i : Slot) : slotOf (channelOf i) = some i :=
  slotOf_eq_some.2 (channelOf_toNat i)

/-- Settles O14: the channel is the slot's number plus 1, both ways. -/
theorem channelRoundTrip : Obligations.ChannelRoundTrip := by
  unfold Obligations.ChannelRoundTrip
  refine ⟨fun ch hlo hhi => ?channel, fun ch => slotOf_of_invalid, slotOf_channelOf, fun val => angleValid_eq_true_iff⟩
  case channel =>
    have hch : ch.toNat - 1 < Config.nServo := by simp only [Config.nServo]; omega
    refine ⟨⟨ch.toNat - 1, hch⟩, slotOf_eq_some.2 (Nat.sub_add_cancel hlo).symm, rfl, BitVec.eq_of_toNat_eq ?_⟩
    rw [channelOf_toNat]
    exact Nat.sub_add_cancel hlo

/-- Settles O56: the table of 60_exceptions.md R160, row by row. -/
theorem outcomeCodeNumbers : Obligations.OutcomeCodeNumbers := by
  unfold Obligations.OutcomeCodeNumbers
  exact ⟨rfl, rfl, rfl, rfl, rfl, rfl, rfl, rfl, rfl, rfl, rfl, rfl⟩

/-- The CMD write, while IDLE, of an SCFG of a configured slot (40_servo.md R102). -/
theorem step_scfg_of_taken {s : State} {rest : List Turn} {ops : List HostOp} {w : Word} {ch : BitVec 8}
    {val : BitVec 16} {i : Slot} {m : MaxAngle} (hs : s.seq = .idle) (ht : s.turns = .host :: rest)
    (hp : s.prog = .write 0x00#6 4 w :: ops) (hd : decode w = .cmd (.scfg ch val)) (hch : slotOf ch = some i)
    (hlo : 1 ≤ val.toNat) (hhi : val.toNat ≤ 359) (hslot : s.cfg[i] = some m) :
    step s = .next { s with turns := rest, prog := ops, resp := some .okWrite, code := .repeatChannel } :=
  (step_exec ht hp hs hd).trans (execScfg_of_taken hch hlo hhi hslot)

/-- Settles O58: the first word fills the empty slot, so that the second finds it taken. -/
theorem repeatedScfgIsRejected : Obligations.RepeatedScfgIsRejected := by
  unfold Obligations.RepeatedScfgIsRejected
  intro s rest ops w ch val i hs ht hp hd hch hlo hhi hslot
  have hi : slotOf ch = some i := slotOf_eq_some.2 hch
  have hfirst := (step_exec ht hp hs hd).trans (execScfg_of_empty hi hlo hhi hslot)
  have hfilled : (s.cfg.set i.val (some (val.setWidth 9)) i.isLt)[i] = some (val.setWidth 9) :=
    Vector.getElem_set_self i.isLt
  exact ⟨_, _, val.setWidth 9, hfirst, rfl, toNat_setWidth_of_le_angleMax hhi, hfilled,
    step_scfg_of_taken (by exact hs) rfl rfl hd hi hlo hhi hfilled, rfl, rfl⟩

end Sys2Proof.Machine
